-- ==== Sys2Proof/Word.lean ====
section
/-!
DEFINITION. The words of the block: what the spec treats as bits (00_scope rule R10).
-/

namespace Sys2Proof

/-- A front-end register's content, `u8` (10_state rule R26). -/
abbrev Byte := BitVec 8

/-- A front-end register number as a command or a table gives it: the 16-bit field `addr` of
30_encoding rule R81. Only numbers below `2^FE_ADDR_BITS` name a register. -/
abbrev RegAddr := BitVec 16

/-- A front-end port id, `u32` (10_state rule R20). -/
abbrev PortId := BitVec 32

/-- A frequency in hertz, `u64` (00_scope rule R10). -/
abbrev Freq := BitVec 64

/-- A value of the RFFE control register: a number below `2^RFFE_BITS` (10_state rule R24). The width
is a parameter without an upper bound (00_scope rule R9), so no fixed bit vector holds every one
(log 14). -/
abbrev Rffe := Nat

end Sys2Proof
end

