-- ==== Sys2Proof/Machine/Bits.lean ====
section
/-!
DEFINITION. Bit fields of a value, in the notation of 00_scope rule R10.
-/

namespace Sys2Proof.Machine

/-- The `n` ones at bits `lo + n - 1 : lo` (R10). -/
def fieldMask (w lo n : Nat) : BitVec w :=
  BitVec.ofNat w ((2 ^ n - 1) <<< lo)

/-- `v[lo+n-1 : lo]` (R10). -/
def getField {w : Nat} (lo n : Nat) (v : BitVec w) : BitVec w :=
  (v >>> lo) &&& BitVec.ofNat w (2 ^ n - 1)

/-- `v with [lo+n-1 : lo] <- f` (R10): the field becomes the low `n` bits of `f`, every other bit is
unchanged. -/
def setField {w : Nat} (lo n : Nat) (v f : BitVec w) : BitVec w :=
  (v &&& ~~~(fieldMask w lo n)) ||| ((f <<< lo) &&& fieldMask w lo n)

/-- `v with [i] <- b` (R10). -/
def setBit {w : Nat} (i : Nat) (v : BitVec w) (b : Bool) : BitVec w :=
  setField i 1 v (if b then 1 else 0)

/-! The same for a value whose width is a parameter. -/

/-- `v[lo+n-1 : lo]` (R10). -/
def natField (lo n v : Nat) : Nat :=
  (v >>> lo) % 2 ^ n

/-- `v with [lo+n-1 : lo] <- f` (R10): `{v above the field, f[n-1:0], v[lo-1:0]}`. -/
def setNatField (lo n v f : Nat) : Nat :=
  ((((v >>> (lo + n)) <<< n) ||| (f % 2 ^ n)) <<< lo) ||| (v % 2 ^ lo)

/-- `v with [i] <- b` (R10). -/
def setNatBit (i v : Nat) (b : Bool) : Nat :=
  setNatField i 1 v b.toNat

end Sys2Proof.Machine
end

