-- ==== Sys2Proof/Names.lean ====
section
/-!
DEFINITION. The enumerations of 00_scope rule R13 and the error kinds of 60_exceptions rule R241.
Their numeric codes are in Sys2Proof/Machine/Operands.lean.
-/

namespace Sys2Proof

/-- A direction (R13). -/
inductive Dir where
  | rx
  | tx
  deriving DecidableEq, Repr

/-- One of the four logical channels (R13); the source's "RX0" is `rx1` (90_conflicts C1). -/
inductive Chan where
  | rx1
  | tx1
  | rx2
  | tx2
  deriving DecidableEq, Repr

/-- A correction kind (R13). -/
inductive Kind where
  | dcI
  | dcQ
  | phase
  | gain
  deriving DecidableEq, Repr

/-- A band (R13). -/
inductive Band where
  | shutdown
  | low
  | high
  deriving DecidableEq, Repr

/-- The I/Q index of a receive DC-offset pair (R13). -/
inductive Iq where
  | i
  | q
  deriving DecidableEq, Repr

/-- The band of a correction: `Low` or `High`, never `Shutdown` (42_calibration rule R161). -/
inductive CorrBand where
  | low
  | high
  deriving DecidableEq, Repr

/-- The four board states, totally ordered (10_state rule R23). -/
inductive BoardState where
  | uninitialized
  | firmwareLoaded
  | fpgaLoaded
  | initialized
  deriving DecidableEq, Repr

/-- The ten error kinds of the taxonomy (60_exceptions rule R241). -/
inductive Err where
  | unexpected
  | range
  | inval
  | mem
  | io
  | timeout
  | nodev
  | unsupported
  | wouldBlock
  | notInit
  deriving DecidableEq, Repr

end Sys2Proof
end

