-- ==== Sys2Proof/Config.lean ====
section
/-!
DEFINITION. The configuration record `Cfg` of 00_scope rules R8 and R9, as plain data, and the free
values of the machine. The reference `Cfg` is in Sys2Proof/Machine/Reference.lean; what makes a
`Cfg` legal is in Sys2Proof/Machine/Legal.lean.
-/

namespace Sys2Proof

/-- One value per direction: `x[dir]` of the spec. -/
structure PerDir (α : Type) where
  rx : α
  tx : α
  deriving DecidableEq, Repr

/-- One value per channel: `x[ch]` of the spec. -/
structure PerChan (α : Type) where
  rx1 : α
  tx1 : α
  rx2 : α
  tx2 : α
  deriving DecidableEq, Repr

/-- One value per correction kind. -/
structure PerKind (α : Type) where
  dcI : α
  dcQ : α
  phase : α
  gain : α
  deriving DecidableEq, Repr

/-- One value per band, the Shutdown entry included. -/
structure PerBand (α : Type) where
  shutdown : α
  low : α
  high : α
  deriving DecidableEq, Repr

/-- One value per band of a correction. -/
structure PerCorrBand (α : Type) where
  low : α
  high : α
  deriving DecidableEq, Repr

/-- A Range, `{min, max, step, scale}` over integers (41_band_port rule R130). -/
structure Range where
  min : Int
  max : Int
  step : Int
  scale : Int
  deriving DecidableEq, Repr

/-- One entry of `BAND_TABLE[dir]` (41_band_port rule R132). -/
structure BandEntry where
  band : Band
  range : Range
  deriving DecidableEq, Repr

/-- One entry of `BAND_OF_PORT[dir]` (42_calibration rule R161). -/
structure PortBand where
  port : PortId
  band : CorrBand
  deriving DecidableEq, Repr

/-- Scheme S: the single register of each band and the shift `s` (42_calibration rule R162). -/
structure SingleEntry where
  reg : PerCorrBand RegAddr
  shift : Nat
  deriving DecidableEq, Repr

/-- A (top, bottom) pair of registers (42_calibration rule R168). -/
structure RegPair where
  top : RegAddr
  bot : RegAddr
  deriving DecidableEq, Repr

/-- The layout `(top_lo, top_n, bot_lo, bot_n)` of a packed pair (42_calibration rule R169). -/
structure Layout where
  topLo : Nat
  topN : Nat
  botLo : Nat
  botN : Nat
  deriving DecidableEq, Repr

/-- Scheme P: the register pair of each band and the layout, which does not depend on the band
(42_calibration rules R168 and R169). -/
structure PairEntry where
  reg : PerCorrBand RegPair
  layout : Layout
  deriving DecidableEq, Repr

/-- The correction registers of a receive channel: its DC offsets are packed pairs (R160). -/
structure RxCorr where
  dcI : PairEntry
  dcQ : PairEntry
  phase : SingleEntry
  gain : SingleEntry
  deriving DecidableEq, Repr

/-- The correction registers of a transmit channel: all four are single registers (R160). -/
structure TxCorr where
  dcI : SingleEntry
  dcQ : SingleEntry
  phase : SingleEntry
  gain : SingleEntry
  deriving DecidableEq, Repr

/-- `CORR_REG`, `CORR_SHIFT`, `RXDC_REG` and `RXDC_LAYOUT` together: every (channel, kind) has the
entry of its scheme and no other, which is the completeness rule R162 asks for. -/
structure CorrTable where
  rx1 : RxCorr
  rx2 : RxCorr
  tx1 : TxCorr
  tx2 : TxCorr
  deriving DecidableEq, Repr

/-- The ids of the receive ports: the three balanced ones and the others (R9, "Port ids"). -/
structure RxPorts where
  aBalanced : PortId
  bBalanced : PortId
  cBalanced : PortId
  others : List PortId
  deriving DecidableEq, Repr

/-- The ids of the transmit ports (R9, "Port ids"). -/
structure TxPorts where
  txa : PortId
  txb : PortId
  deriving DecidableEq, Repr

/-- `ERR_*`: the `i32` status code of each error kind (60_exceptions rule R241). -/
structure ErrCodes where
  unexpected : BitVec 32
  range : BitVec 32
  inval : BitVec 32
  mem : BitVec 32
  io : BitVec 32
  timeout : BitVec 32
  nodev : BitVec 32
  unsupported : BitVec 32
  wouldBlock : BitVec 32
  notInit : BitVec 32
  deriving DecidableEq, Repr

/-- One row of `ERR_MAP`, keyed by the magnitude of the collaborator's code (60_exceptions rule
R243). -/
structure ErrMapRow where
  code : Nat
  err : Err
  deriving DecidableEq, Repr

/-- The configuration record of 00_scope rule R9, field by field. -/
structure Cfg where
  /-- `FE_ADDR_BITS`. -/
  feAddrBits : Nat
  /-- `RFFE_BITS`. -/
  rffeBits : Nat
  /-- `EN_BIT[dir]`. -/
  enBit : PerDir Nat
  /-- `ANT_LSB[dir]`. -/
  antLsb : PerDir Nat
  /-- `ANT_W`. -/
  antW : Nat
  /-- `ANT_CODE[dir][band]`. -/
  antCode : PerDir (PerBand Rffe)
  /-- `PORT_OF_BAND[dir][band]`. -/
  portOfBand : PerDir (PerBand PortId)
  /-- `BAND_TABLE[dir]`. -/
  bandTable : PerDir (List BandEntry)
  /-- `F_BOUNDARY`. -/
  fBoundary : Nat
  /-- `F_BAND_MAX`. -/
  fBandMax : Nat
  /-- `FREQ_RANGE[dir]`. -/
  freqRange : PerDir Range
  /-- `LO_DEFAULT[dir]`. -/
  loDefault : PerDir Freq
  /-- `RFFE_INIT`. -/
  rffeInit : Rffe
  /-- The receive half of "Port ids". -/
  rxPorts : RxPorts
  /-- The transmit half of "Port ids". -/
  txPorts : TxPorts
  /-- `VALID_PORTS[dir]`. -/
  validPorts : PerDir (List PortId)
  /-- `BAND_OF_PORT[dir]`. -/
  bandOfPort : PerDir (List PortBand)
  /-- `CORR_REG`, `CORR_SHIFT`, `RXDC_REG`, `RXDC_LAYOUT`. -/
  corr : CorrTable
  /-- `FORCE_REG[ch]`. -/
  forceReg : PerChan RegAddr
  /-- `FORCE_BIT[ch][kind][band]`. -/
  forceBit : PerChan (PerKind (PerCorrBand Nat))
  /-- `ERR_*`. -/
  errCodes : ErrCodes
  /-- `ERR_MAP`. -/
  errMap : List ErrMapRow
  /-- `REG_MIN_STATE`. -/
  regMinState : BoardState
  deriving DecidableEq, Repr

/-!
The free values (log 7). "Any value" of a rule is one of these constants at the next unused index.
They have no body, so nothing can be proved of what they are.
-/

/-- The content of front-end register `a` at the `n`-th free choice (10_state rule R31, 20_memory
rule R56, 40_bringup rules R114 and R116, 44_lowlevel rule R224). -/
opaque Config.freeByte (n : Nat) (a : Nat) : Byte

/-- The content of the RFFE register at the `n`-th free choice (20_memory rule R57, 40_bringup
rules R111 and R116). -/
opaque Config.freeRffe (n : Nat) : Rffe

/-- The active port of a direction at the `n`-th free choice (20_memory rule R58, 40_bringup rules
R114 and R116). -/
opaque Config.freePort (n : Nat) (d : Dir) : PortId

/-- The oscillator frequency of a direction at the `n`-th free choice (20_memory rule R58, 40_bringup
rule R116). -/
opaque Config.freeFreq (n : Nat) (d : Dir) : Freq

/-- The module-enable bit of a direction at the `n`-th free choice (20_memory rule R59, 40_bringup
rules R111 and R116). -/
opaque Config.freeModEn (n : Nat) (d : Dir) : Bool

end Sys2Proof
end

