-- ==== Sys2Proof/Syntax.lean ====
section
/-!
DEFINITION. The commands of the block: the pair on the command port and the fifteen rows of
spec/opcode_table.json (30_encoding rules R80 to R84).
-/

namespace Sys2Proof

/-- What the command port carries: a command word and its operand (30_encoding rule R80). -/
structure Command where
  cw : BitVec 32
  arg : BitVec 64
  deriving DecidableEq, Repr

/-- The fifteen commands. A channel or kind operand is the whole eight-bit field: the illegal
values can be issued and are answered with `ERR_INVAL` (30_encoding rules R81 and R83). -/
inductive Instr where
  /-- `FW_DETECTED`, 40_bringup rule R110. -/
  | fwDetected
  /-- `FPGA_LOADED`, 40_bringup rule R111. -/
  | fpgaLoaded
  /-- `INIT`, 40_bringup rule R114. -/
  | init
  /-- `CLOSE`, 40_bringup rule R116. -/
  | close
  /-- `SELECT_BAND ch, freq`, 41_band_port rule R136. -/
  | selectBand (ch : BitVec 8) (freq : Freq)
  /-- `SET_FREQUENCY ch, freq`, 41_band_port rule R138. -/
  | setFrequency (ch : BitVec 8) (freq : Freq)
  /-- `SET_RF_PORT ch, portid`, 41_band_port rule R140. -/
  | setRfPort (ch : BitVec 8) (portid : PortId)
  /-- `GET_RF_PORT ch`, 41_band_port rule R141. -/
  | getRfPort (ch : BitVec 8)
  /-- `GET_CORRECTION ch, kind`, 42_calibration rule R178. -/
  | getCorrection (ch : BitVec 8) (kind : BitVec 8)
  /-- `SET_CORRECTION ch, kind, value`, 42_calibration rule R179; `value` is an `i16`. -/
  | setCorrection (ch : BitVec 8) (kind : BitVec 8) (value : BitVec 16)
  /-- `ENABLE_MODULE ch`, 43_module_enable rule R202. -/
  | enableModule (ch : BitVec 8)
  /-- `DISABLE_MODULE ch`, 43_module_enable rule R203. -/
  | disableModule (ch : BitVec 8)
  /-- `SYNC_CONFIG ch`, 43_module_enable rule R205. -/
  | syncConfig (ch : BitVec 8)
  /-- `REG_READ addr`, 44_lowlevel rule R223. -/
  | regRead (addr : RegAddr)
  /-- `REG_WRITE addr, data`, 44_lowlevel rule R224. -/
  | regWrite (addr : RegAddr) (data : Byte)
  deriving DecidableEq, Repr

end Sys2Proof
end

