-- ==== Sys2Proof/Machine/Operands.lean ====
section
/-!
DEFINITION. The operand forms: codes of the enumerations, the tables of `Cfg` by index, ranges and
bands, effective addresses and the codec's arithmetic.
-/

namespace Sys2Proof

/-! Codes (00_scope rule R13). -/

def BoardState.code : BoardState → Nat
  | .uninitialized => 0
  | .firmwareLoaded => 1
  | .fpgaLoaded => 2
  | .initialized => 3

def Dir.code : Dir → Nat
  | .rx => 0
  | .tx => 1

def Band.code : Band → Nat
  | .shutdown => 0
  | .low => 1
  | .high => 2

def Iq.code : Iq → Nat
  | .i => 0
  | .q => 1

/-- The I/Q index of a correction kind: `I` for `DC_I`, `Q` for `DC_Q` (R13). -/
def Kind.iq? : Kind → Option Iq
  | .dcI => some .i
  | .dcQ => some .q
  | .phase => none
  | .gain => none

/-- The channel a channel operand names; none above 3 (30_encoding rules R82 and R83). -/
def Chan.ofCode (ch : BitVec 8) : Option Chan :=
  match ch.toNat with
  | 0 => some .rx1
  | 1 => some .tx1
  | 2 => some .rx2
  | 3 => some .tx2
  | _ => none

def Chan.code : Chan → BitVec 8
  | .rx1 => 0
  | .tx1 => 1
  | .rx2 => 2
  | .tx2 => 3

/-- `dir(ch) = ch[0]` (R13). -/
def Chan.dir : Chan → Dir
  | .rx1 => .rx
  | .tx1 => .tx
  | .rx2 => .rx
  | .tx2 => .tx

/-- `sub(ch) = ch[1]`, the sub-channel index (R13). No command's effect depends on it. -/
def Chan.sub : Chan → Nat
  | .rx1 => 0
  | .tx1 => 0
  | .rx2 => 1
  | .tx2 => 1

/-- The kind a kind operand names; none above 3 (30_encoding rules R82 and R83). -/
def Kind.ofCode (kind : BitVec 8) : Option Kind :=
  match kind.toNat with
  | 0 => some .dcI
  | 1 => some .dcQ
  | 2 => some .phase
  | 3 => some .gain
  | _ => none

def Kind.code : Kind → BitVec 8
  | .dcI => 0
  | .dcQ => 1
  | .phase => 2
  | .gain => 3

def Chan.all : List Chan := [.rx1, .tx1, .rx2, .tx2]

def Kind.all : List Kind := [.dcI, .dcQ, .phase, .gain]

def CorrBand.all : List CorrBand := [.low, .high]

def Err.all : List Err :=
  [.unexpected, .range, .inval, .mem, .io, .timeout, .nodev, .unsupported, .wouldBlock, .notInit]

/-! Tables by index (20_memory rule R61: table lookup is the one addressing mode). -/

def PerDir.get {α : Type} (t : PerDir α) : Dir → α
  | .rx => t.rx
  | .tx => t.tx

def PerDir.set {α : Type} (t : PerDir α) (d : Dir) (v : α) : PerDir α :=
  match d with
  | .rx => { t with rx := v }
  | .tx => { t with tx := v }

def PerChan.get {α : Type} (t : PerChan α) : Chan → α
  | .rx1 => t.rx1
  | .tx1 => t.tx1
  | .rx2 => t.rx2
  | .tx2 => t.tx2

def PerKind.get {α : Type} (t : PerKind α) : Kind → α
  | .dcI => t.dcI
  | .dcQ => t.dcQ
  | .phase => t.phase
  | .gain => t.gain

def PerBand.get {α : Type} (t : PerBand α) : Band → α
  | .shutdown => t.shutdown
  | .low => t.low
  | .high => t.high

def PerCorrBand.get {α : Type} (t : PerCorrBand α) : CorrBand → α
  | .low => t.low
  | .high => t.high

/-- Where a correction is stored: one register (scheme S) or a packed pair (scheme P). -/
inductive Slot where
  | single (e : SingleEntry)
  | pair (e : PairEntry)
  deriving DecidableEq, Repr

/-- `RXDC_REG` and `RXDC_LAYOUT` by I/Q index (42_calibration rules R168 and R169). -/
def RxCorr.rxdc (t : RxCorr) : Iq → PairEntry
  | .i => t.dcI
  | .q => t.dcQ

def RxCorr.slot (t : RxCorr) : Kind → Slot
  | .dcI => .pair (t.rxdc .i)
  | .dcQ => .pair (t.rxdc .q)
  | .phase => .single t.phase
  | .gain => .single t.gain

def TxCorr.slot (t : TxCorr) : Kind → Slot
  | .dcI => .single t.dcI
  | .dcQ => .single t.dcQ
  | .phase => .single t.phase
  | .gain => .single t.gain

/-- The storage of the correction `(ch, kind)`: scheme P exactly for the DC offsets of the receive
channels (42_calibration rule R160). -/
def Cfg.slot (c : Cfg) (ch : Chan) (kind : Kind) : Slot :=
  match ch with
  | .rx1 => c.corr.rx1.slot kind
  | .rx2 => c.corr.rx2.slot kind
  | .tx1 => c.corr.tx1.slot kind
  | .tx2 => c.corr.tx2.slot kind

/-- `FORCE_BIT[ch][kind][band]` (42_calibration rule R175). -/
def Cfg.forceBitOf (c : Cfg) (ch : Chan) (kind : Kind) (b : CorrBand) : Nat :=
  ((c.forceBit.get ch).get kind).get b

/-- `ANT_CODE[d][b]` (41_band_port rule R134). -/
def Cfg.antCodeOf (c : Cfg) (d : Dir) (b : Band) : Rffe :=
  (c.antCode.get d).get b

/-- `PORT_OF_BAND[d][b]` (41_band_port rule R134). -/
def Cfg.portOf (c : Cfg) (d : Dir) (b : Band) : PortId :=
  (c.portOfBand.get d).get b

/-- The numeric status of an error kind, an `i32` (60_exceptions rule R241). -/
def Cfg.errCode (c : Cfg) : Err → BitVec 32
  | .unexpected => c.errCodes.unexpected
  | .range => c.errCodes.range
  | .inval => c.errCodes.inval
  | .mem => c.errCodes.mem
  | .io => c.errCodes.io
  | .timeout => c.errCodes.timeout
  | .nodev => c.errCodes.nodev
  | .unsupported => c.errCodes.unsupported
  | .wouldBlock => c.errCodes.wouldBlock
  | .notInit => c.errCodes.notInit

/-- A scan of `ERR_MAP` for the magnitude of a collaborator's code. -/
def lookupErr : List ErrMapRow → Nat → Err
  | [], _ => .unexpected
  | r :: rs, code => if r.code = code then r.err else lookupErr rs code

/-- The taxonomy error of a collaborator's negative status; "unmapped codes become 'unexpected'"
(60_exceptions rule R243). -/
def Cfg.translate (c : Cfg) (status : Int) : Err :=
  lookupErr c.errMap status.natAbs

/-! Ranges and bands. -/

/-- `InRange(R, v)` (41_band_port rule R130). -/
def Range.contains (r : Range) (v : Int) : Bool :=
  decide (r.min * r.scale ≤ v) && decide (v ≤ r.max * r.scale)

/-- `Clamp(R, v)` (41_band_port rule R131). No command uses it. -/
def Range.clamp (r : Range) (v : Int) : Int :=
  if v < r.min * r.scale then r.min * r.scale
  else if r.max * r.scale < v then r.max * r.scale
  else v

/-- `BAND_TABLE` of one direction (41_band_port rule R132, 90_conflicts C3, 92 D17): `Low` up to the
boundary, `High` from it to the top. The shape is the spec's, the two numbers are a `Cfg`'s. -/
def bandTableOf (fBoundary fBandMax : Nat) : List BandEntry :=
  [⟨.low, ⟨0, (fBoundary : Int) - 1, 1, 1⟩⟩, ⟨.high, ⟨(fBoundary : Int), (fBandMax : Int), 1, 1⟩⟩]

/-- The first entry whose range holds `v`; `Shutdown` when none does (41_band_port rule R132). -/
def scanBands : List BandEntry → Int → Band
  | [], _ => .shutdown
  | e :: es, v => if e.range.contains v then e.band else scanBands es v

/-- `BandOf(d, f)` (41_band_port rule R132). -/
def Cfg.bandOf (c : Cfg) (d : Dir) (f : Freq) : Band :=
  scanBands (c.bandTable.get d) (f.toNat : Int)

/-- `BandFor(d, enabled, f)` (41_band_port rule R133). -/
def Cfg.bandFor (c : Cfg) (d : Dir) (enabled : Bool) (f : Freq) : Band :=
  if enabled then c.bandOf d f else .shutdown

/-- A scan of `BAND_OF_PORT[d]`. -/
def lookupPort : List PortBand → PortId → Option CorrBand
  | [], _ => none
  | e :: es, p => if e.port = p then some e.band else lookupPort es p

/-- `BandOfPort(d, p)` (42_calibration rule R161); none where the rule raises `ERR_UNSUPPORTED`. -/
def Cfg.corrBandOfPort (c : Cfg) (d : Dir) (p : PortId) : Option CorrBand :=
  lookupPort (c.bandOfPort.get d) p

/-- `portid in VALID_PORTS[d]` (41_band_port rules R140 and R141). -/
def Cfg.portValid (c : Cfg) (d : Dir) (p : PortId) : Bool :=
  (c.validPorts.get d).contains p

/-- Whether `a` names a register of the `FE` space, `a < 2^FE_ADDR_BITS` (20_memory rule R50). -/
def Cfg.feHas (c : Cfg) (a : RegAddr) : Bool :=
  decide (a.toNat < 2 ^ c.feAddrBits)

/-! The codec's arithmetic (42_calibration). -/

namespace Machine

/-- `Decode8(x, s) = sext_(s+8)(x << s)` (R164). -/
def decode8 (x : Byte) (s : Nat) : Int :=
  ((x.setWidth (s + 8)) <<< s).toInt

/-- `Encode8(v, s) = asr(v, s)[7:0]` (R165). -/
def encode8 (v : BitVec 16) (s : Nat) : Byte :=
  (v.sshiftRight s).setWidth 8

/-- `Unpack(L, t, m)` (R170). -/
def unpack (l : Layout) (t m : Byte) : BitVec 10 :=
  (((getField l.topLo l.topN t).setWidth 10) <<< l.botN) |||
    ((getField l.botLo l.botN m).setWidth 10)

/-- The top byte of `Pack(L, t, m, phys)` (R172). -/
def packTop (l : Layout) (t : Byte) (phys : BitVec 10) : Byte :=
  setField l.topLo l.topN t ((phys >>> l.botN).setWidth 8)

/-- The bottom byte of `Pack(L, t, m, phys)` (R172). -/
def packBot (l : Layout) (m : Byte) (phys : BitVec 10) : Byte :=
  setField l.botLo l.botN m (phys.setWidth 8)

/-- `DecodeRxDc(phys) = sext_13(phys << 3)` (R171). -/
def decodeRxDc (phys : BitVec 10) : Int :=
  ((phys.setWidth 13) <<< 3).toInt

/-- `EncodeRxDc(v) = asr(v, 3)[9:0]` (R171). -/
def encodeRxDc (v : BitVec 16) : BitVec 10 :=
  (v.sshiftRight 3).setWidth 10

/-- `sext_16(v) widened to 64 bits`, the `RESULT` of `GET_CORRECTION` (R178). -/
def resultOfValue (v : Int) : BitVec 64 :=
  (BitVec.ofInt 16 v).signExtend 64

end Machine

end Sys2Proof
end

