-- ==== Sys2Proof/Machine/Reference.lean ====
section
/-!
DEFINITION. The reference `Cfg` of 00_scope rule R9. PRESUMED throughout (log 3): the spec marks
almost every value "[from general knowledge, not in source]" and no statement rests on one without
saying so.
-/

namespace Sys2Proof

/-- 42_calibration rule R163. -/
def SingleEntry.reference (high low : RegAddr) (shift : Nat) : SingleEntry :=
  { reg := { low := low, high := high }, shift := shift }

/-- 42_calibration rules R168 and R169. -/
def PairEntry.reference (high low : RegPair) (layout : Layout) : PairEntry :=
  { reg := { low := low, high := high }, layout := layout }

/-- The reference correction tables: 42_calibration rules R163, R168 and R169. -/
def CorrTable.reference : CorrTable where
  rx1 :=
    { dcI := PairEntry.reference ⟨0x176, 0x175⟩ ⟨0x17F, 0x17E⟩ ⟨0, 4, 2, 6⟩
      dcQ := PairEntry.reference ⟨0x175, 0x174⟩ ⟨0x17E, 0x17D⟩ ⟨0, 2, 0, 8⟩
      phase := SingleEntry.reference 0x170 0x179 6
      gain := SingleEntry.reference 0x171 0x17A 6 }
  rx2 :=
    { dcI := PairEntry.reference ⟨0x178, 0x177⟩ ⟨0x181, 0x180⟩ ⟨0, 8, 0, 2⟩
      dcQ := PairEntry.reference ⟨0x177, 0x176⟩ ⟨0x180, 0x17F⟩ ⟨0, 6, 4, 4⟩
      phase := SingleEntry.reference 0x172 0x17B 6
      gain := SingleEntry.reference 0x173 0x17C 6 }
  tx1 :=
    { dcI := SingleEntry.reference 0x092 0x09A 5
      dcQ := SingleEntry.reference 0x093 0x09B 5
      phase := SingleEntry.reference 0x08E 0x096 6
      gain := SingleEntry.reference 0x08F 0x097 6 }
  tx2 :=
    { dcI := SingleEntry.reference 0x094 0x09C 5
      dcQ := SingleEntry.reference 0x095 0x09D 5
      phase := SingleEntry.reference 0x090 0x098 6
      gain := SingleEntry.reference 0x091 0x099 6 }

/-- The force bits of a first (`RX1`, `TX1`) or second (`RX2`, `TX2`) channel: 42_calibration rule
R175. -/
def forceBitsReference (dcLow dcHigh pgLow pgHigh : Nat) : PerKind (PerCorrBand Nat) where
  dcI := ⟨dcLow, dcHigh⟩
  dcQ := ⟨dcLow, dcHigh⟩
  phase := ⟨pgLow, pgHigh⟩
  gain := ⟨pgLow, pgHigh⟩

/-- The reference values of 00_scope rule R9 and 60_exceptions rules R241 and R243. -/
def Cfg.reference : Cfg where
  feAddrBits := 10
  rffeBits := 32
  enBit := ⟨1, 2⟩
  antLsb := ⟨6, 11⟩
  antW := 4
  antCode := ⟨⟨0x0, 0xA, 0x5⟩, ⟨0x0, 0xA, 0x5⟩⟩
  portOfBand := ⟨⟨0, 1, 0⟩, ⟨0, 1, 0⟩⟩
  bandTable := ⟨bandTableOf 3000000000 6000000000, bandTableOf 3000000000 6000000000⟩
  fBoundary := 3000000000
  fBandMax := 6000000000
  freqRange := ⟨⟨70000000, 6000000000, 2, 1⟩, ⟨47000000, 6000000000, 2, 1⟩⟩
  loDefault := ⟨2400000000, 2400000000⟩
  rffeInit := 0
  rxPorts := ⟨0, 1, 2, [3, 4, 5, 6, 7, 8, 9, 10, 11]⟩
  txPorts := ⟨0, 1⟩
  validPorts := ⟨[0, 1, 2, 3, 4, 5, 6, 7, 8, 9, 10, 11], [0, 1]⟩
  bandOfPort := ⟨[⟨0, .high⟩, ⟨1, .low⟩, ⟨2, .low⟩], [⟨0, .high⟩, ⟨1, .low⟩]⟩
  corr := CorrTable.reference
  forceReg := ⟨0x182, 0x09F, 0x182, 0x09F⟩
  forceBit :=
    { rx1 := forceBitsReference 6 2 4 0
      tx1 := forceBitsReference 6 2 4 0
      rx2 := forceBitsReference 7 3 5 1
      tx2 := forceBitsReference 7 3 5 1 }
  errCodes :=
    { unexpected := BitVec.ofInt 32 (-1)
      range := BitVec.ofInt 32 (-2)
      inval := BitVec.ofInt 32 (-3)
      mem := BitVec.ofInt 32 (-4)
      io := BitVec.ofInt 32 (-5)
      timeout := BitVec.ofInt 32 (-6)
      nodev := BitVec.ofInt 32 (-7)
      unsupported := BitVec.ofInt 32 (-8)
      wouldBlock := BitVec.ofInt 32 (-18)
      notInit := BitVec.ofInt 32 (-19) }
  errMap :=
    [⟨5, .io⟩, ⟨11, .wouldBlock⟩, ⟨12, .mem⟩, ⟨14, .unexpected⟩, ⟨19, .nodev⟩, ⟨22, .inval⟩,
      ⟨110, .timeout⟩]
  regMinState := .fpgaLoaded

/-- The reference `Cfg` with the strictly mirrored RX2-I layout `(0, 8, 6, 2)`: 42_calibration rule
R169, 93 U1. -/
def Cfg.alternative : Cfg :=
  let r := Cfg.reference
  { r with corr := { r.corr with rx2 := { r.corr.rx2 with
      dcI := { r.corr.rx2.dcI with layout := ⟨0, 8, 6, 2⟩ } } } }

end Sys2Proof
end

