-- ==== Sys2Proof/Machine/State.lean ====
section
/-!
DEFINITION. The state of the machine: the record `S` of 10_state rule R20, the block's ports, the
configuration, and the reset state.
-/

namespace Sys2Proof.Machine

/-- A response (30_encoding rule R86): `STATUS`, an `i32` with 0 for success, and `RESULT`. -/
structure Response where
  status : BitVec 32
  result : BitVec 64
  deriving DecidableEq, Repr

/-- A primitive call at a collaborator's port (20_memory rules R55 to R60). -/
inductive Call where
  | spiRead (a : RegAddr)
  | spiWrite (a : RegAddr) (v : Byte)
  | rffeRead
  | rffeWrite (v : Rffe)
  | phyGetPort (d : Dir)
  | phySetPort (d : Dir) (p : PortId)
  | phyGetLo (d : Dir)
  | phySetLo (d : Dir) (f : Freq)
  | backendEnable (d : Dir) (e : Bool)
  | streamTeardown (d : Dir)
  deriving DecidableEq, Repr

/-- Everything the machine holds. Plain data. -/
@[ext]
structure State where
  /-- The configuration `Cfg` (00_scope rule R8): a constant no command writes. -/
  cfg : Cfg
  /-- `bstate` (10_state rule R23). -/
  bstate : BoardState
  /-- `rffe`, held by the transport backend (10_state rule R24). -/
  rffe : Rffe
  /-- `fe_reg`, held by the front end (10_state rule R26): the registers whose byte is not 0x00,
  addresses strictly rising. -/
  fe : List Host.Cell
  /-- `port[dir]`, held by the front end (10_state rule R29). -/
  port : PerDir PortId
  /-- `lo_freq[dir]`, held by the front end (10_state rule R29). -/
  loFreq : PerDir Freq
  /-- `mod_en[dir]`, held by the transport backend (10_state rule R30). -/
  modEn : PerDir Bool
  /-- `sync_handle[dir]`, held by the streaming engine (10_state rule R30). -/
  syncHandle : PerDir Bool
  /-- The command port: the commands the host has issued and the block has not executed, the next
  one first (30_encoding rule R80, 20_memory rule R52; log 1). -/
  pending : List Command
  /-- The response port: the last response, none before the first (30_encoding rule R86; log 2). -/
  response : Option Response
  /-- The statuses the collaborators answer the next primitive calls with, the next one first;
  negative is failure, and where the list has ended a call succeeds (60_exceptions rule R243;
  log 5). -/
  replies : List Int
  /-- The primitive calls made so far, the first one first (43_module_enable rule R204; log 16). -/
  calls : List Call
  /-- The index of the next free value (the model's own field, log 7). -/
  freeCount : Nat
  deriving DecidableEq, Repr

/-- Why the machine stops. No rule of the spec stops it (60_exceptions rule R240). -/
inductive Fault where
  /-- A table of `Cfg` names a front-end register the `FE` space does not have, which no legal `Cfg`
  does (00_scope rule R9, 20_memory rule R55). Raised by `spiRead` and `spiWrite`. Safe: the model
  stops where the spec defines nothing (log 15). -/
  | feAddressOutside (a : RegAddr)
  deriving DecidableEq, Repr

/-- Why an instruction has no meaning. -/
inductive Refusal where
  /-- The instruction is not modelled. Raised by exec's refused arms only; no arm is refused. Safe:
  the model stops. -/
  | notModelled (mnemonic : String)
  deriving DecidableEq, Repr

/-- The state after open (10_state rules R33 and R34): `bstate` and the stream handles as the rules
say, every field the rules leave unspecified at the value of log 4, the reference `Cfg` (log 3), no
command issued, no response given, no failure to come, no call made. -/
def State.reset : State where
  cfg := Cfg.reference
  bstate := .uninitialized
  rffe := 0
  fe := []
  port := ⟨0, 0⟩
  loFreq := ⟨0, 0⟩
  modEn := ⟨false, false⟩
  syncHandle := ⟨false, false⟩
  pending := []
  response := none
  replies := []
  calls := []
  freeCount := 0

end Sys2Proof.Machine
end

