-- ==== Sys2Proof/Machine/Memory.lean ====
section
/-!
DEFINITION. The front-end register space `FE` (20_memory rule R50) as a list of cells: reading and
writing one register, giving registers free content, and the canonical form.
-/

namespace Sys2Proof.Machine

/-- What a register the list does not hold reads as (log 4). -/
def feUnlisted : Byte := 0x00

/-- `fe_reg[a]`. -/
def feGet : List Host.Cell → Nat → Byte
  | [], _ => feUnlisted
  | (b, w) :: m, a => if b = a then w else feGet m a

/-- A cell in front of a list, unless the byte is what an unlisted register reads as. -/
def feCons (a : Nat) (v : Byte) (m : List Host.Cell) : List Host.Cell :=
  if v = feUnlisted then m else (a, v) :: m

/-- `fe_reg[a] <- v`. -/
def fePut : List Host.Cell → Nat → Byte → List Host.Cell
  | [], a, v => feCons a v []
  | (b, w) :: m, a, v =>
    if a < b then feCons a v ((b, w) :: m)
    else if a = b then feCons a v m
    else (b, w) :: fePut m a v

/-- The canonical form: addresses strictly rising, no byte equal to what an unlisted register reads
as. -/
def feWf : List Host.Cell → Bool
  | [] => true
  | (a, v) :: m => decide (v ≠ feUnlisted) && m.all (fun c => decide (a < c.1)) && feWf m

/-- Every listed register exists: its number is below `size`. -/
def feWithin (size : Nat) (m : List Host.Cell) : Bool :=
  m.all fun c => decide (c.1 < size)

/-- The cells `f a` of the registers `a < size`. -/
def feTabulate (size : Nat) (f : Nat → Byte) : List Host.Cell :=
  (List.range size).filterMap fun a => if f a = feUnlisted then none else some (a, f a)

/-- The `size` registers with every bit outside `keep a` given a free value (the `n`-th free choice);
the bits inside it stay. -/
def feRefresh (size : Nat) (keep : Nat → Byte) (n : Nat) (m : List Host.Cell) : List Host.Cell :=
  feTabulate size fun a => (feGet m a &&& keep a) ||| (Config.freeByte n a &&& ~~~(keep a))

end Sys2Proof.Machine
end

