-- ==== Sys2Proof/Machine/Ops.lean ====
section
/-!
DEFINITION. The shared operations: raising an error and answering (60_exceptions rules R240 and
R246), the gate and the operand checks (rules R245, R250, R251), and the ten primitives (20_memory
rules R55 to R60).
-/

namespace Sys2Proof.Machine

/-- How a part of a command ends: it is done with a value, or it has raised an error (R246), or the
machine has stopped. The state is the one it leaves. -/
inductive Res (α : Type) where
  | done (a : α) (s : State)
  | raised (e : Err) (s : State)
  | fault (f : Fault)

/-- The next step of a command: it runs only if the one before it is done (R240). -/
def Res.bind {α β : Type} (r : Res α) (k : α → State → Res β) : Res β :=
  match r with
  | .done a s => k a s
  | .raised e s => .raised e s
  | .fault f => .fault f

/-- Put a response on the response port (30_encoding rule R86). -/
def State.respond (s : State) (status : BitVec 32) (result : BitVec 64) : State :=
  { s with response := some ⟨status, result⟩ }

/-- `raise E` ends the command with `STATUS = E`, `RESULT = 0` and keeps every change made before
(R246). -/
def State.fail (s : State) (e : Err) : State :=
  s.respond (s.cfg.errCode e) 0

/-- The end of a command: `return v` answers `STATUS = 0`, `RESULT = v`; an error answers as
`State.fail` (00_scope rule R12, 60_exceptions rule R246). -/
def answer (r : Res (BitVec 64)) : Host.Outcome State Fault Refusal :=
  match r with
  | .done v s => .next (s.respond 0 v)
  | .raised e s => .next (s.fail e)
  | .fault f => .fault f

/-- The response to an `op` that is no command: `ERR_INVAL`, nothing else (30_encoding rule
R83 a). -/
def illegalOp (s : State) : Host.Outcome State Fault Refusal :=
  answer (.raised .inval s)

/-- The board-state gate: below the minimum state the command raises `ERR_NOT_INIT` (R250). -/
def gate {α : Type} (min : BoardState) (s : State) (k : State → Res α) : Res α :=
  if s.bstate.code < min.code then .raised .notInit s else k s

/-- `if ch > 3 then raise ERR_INVAL` (R251). -/
def withChan {α : Type} (ch : BitVec 8) (s : State) (k : Chan → State → Res α) : Res α :=
  match Chan.ofCode ch with
  | some c => k c s
  | none => .raised .inval s

/-- `if kind > 3 then raise ERR_INVAL` (R251). -/
def withKind {α : Type} (kind : BitVec 8) (s : State) (k : Kind → State → Res α) : Res α :=
  match Kind.ofCode kind with
  | some c => k c s
  | none => .raised .inval s

/-- An operand check: `if not ok then raise e`. -/
def require {α : Type} (ok : Bool) (e : Err) (s : State) (k : State → Res α) : Res α :=
  if ok then k s else .raised e s

/-! The primitives. Each is recorded, takes the collaborator's next status, and succeeds or fails by
its sign; a failure is `raise e` with the translated status (R55, R243). A failed write or set
leaves its one target at a free value (R56 to R58; 93 U7). -/

/-- The status the collaborator answers the next primitive call with; past the end of `replies` a
call succeeds (log 5). -/
def State.nextStatus (s : State) : Int :=
  s.replies.headD 0

/-- The primitive calls `cs` are made: they are recorded, and each takes its status. -/
def State.after (s : State) (cs : List Call) : State :=
  { s with calls := s.calls ++ cs, replies := s.replies.drop cs.length }

/-- A call that has no status is made: it is recorded (R60). -/
def State.logged (s : State) (c : Call) : State :=
  { s with calls := s.calls ++ [c] }

/-- One primitive call: `ok` is its effect when it succeeds, `bad` what a failure leaves. -/
def callWith (c : Call) (ok bad : State → State) (s : State) : Res Unit :=
  if s.nextStatus < 0 then .raised (s.cfg.translate s.nextStatus) (bad (s.after [c]))
  else .done () (ok (s.after [c]))

/-- A primitive that reads: a failure changes nothing (93 U7). -/
def callRead (c : Call) (s : State) : Res Unit :=
  callWith c id id s

/-! Writing one field of the state. -/

/-- `bstate <- b`. -/
def State.withBstate (s : State) (b : BoardState) : State :=
  { s with bstate := b }

/-- `rffe <- v`. -/
def State.withRffe (s : State) (v : Rffe) : State :=
  { s with rffe := v }

/-- `port[d] <- p`. -/
def State.withPort (s : State) (d : Dir) (p : PortId) : State :=
  { s with port := s.port.set d p }

/-- `lo_freq[d] <- f`. -/
def State.withLo (s : State) (d : Dir) (f : Freq) : State :=
  { s with loFreq := s.loFreq.set d f }

/-- `mod_en[d] <- e`. -/
def State.withModEn (s : State) (d : Dir) (e : Bool) : State :=
  { s with modEn := s.modEn.set d e }

/-- `sync_handle[d] <- e`. -/
def State.withHandle (s : State) (d : Dir) (e : Bool) : State :=
  { s with syncHandle := s.syncHandle.set d e }

/-- The next free value is taken. -/
def State.usedFree (s : State) : State :=
  { s with freeCount := s.freeCount + 1 }

/-- `fe_reg[a]` as it stands. -/
def State.feAt (s : State) (a : RegAddr) : Byte :=
  feGet s.fe a.toNat

/-- `fe_reg[a] <- v`. -/
def State.setFe (s : State) (a : RegAddr) (v : Byte) : State :=
  { s with fe := fePut s.fe a.toNat v }

/-- `fe_reg[a] <- any value` (R56). -/
def State.freeFe (s : State) (a : RegAddr) : State :=
  (s.setFe a (Config.freeByte s.freeCount a.toNat)).usedFree

/-- Every front-end register gets any value outside the bits `keep` holds. -/
def State.freeFeOutside (s : State) (keep : Nat → Byte) : State :=
  State.usedFree { s with fe := feRefresh (2 ^ s.cfg.feAddrBits) keep s.freeCount s.fe }

/-- `rffe <- any value` (R57): any value of its `RFFE_BITS` bits. -/
def State.freeRffe (s : State) : State :=
  (s.withRffe (Config.freeRffe s.freeCount % 2 ^ s.cfg.rffeBits)).usedFree

/-- `port[d] <- any value` (R58). -/
def State.freePort (s : State) (d : Dir) : State :=
  (s.withPort d (Config.freePort s.freeCount d)).usedFree

/-- `lo_freq[d] <- any value` (R58). -/
def State.freeLo (s : State) (d : Dir) : State :=
  (s.withLo d (Config.freeFreq s.freeCount d)).usedFree

/-- `mod_en[d] <- any value` (R59). -/
def State.freeModEn (s : State) (d : Dir) : State :=
  (s.withModEn d (Config.freeModEn s.freeCount d)).usedFree

/-- `SpiRead(a)` (R55). A number outside the `FE` space is no register (log 15). -/
def spiRead (a : RegAddr) (s : State) : Res Byte :=
  if s.cfg.feHas a then (callRead (.spiRead a) s).bind fun _ s => .done (s.feAt a) s
  else .fault (.feAddressOutside a)

/-- `SpiWrite(a, v)` (R56). -/
def spiWrite (a : RegAddr) (v : Byte) (s : State) : Res Unit :=
  if s.cfg.feHas a then callWith (.spiWrite a v) (fun s => s.setFe a v) (fun s => s.freeFe a) s
  else .fault (.feAddressOutside a)

/-- `RffeRead()` (R57). -/
def rffeRead (s : State) : Res Rffe :=
  (callRead .rffeRead s).bind fun _ s => .done s.rffe s

/-- `RffeWrite(v)` (R57). -/
def rffeWrite (v : Rffe) (s : State) : Res Unit :=
  callWith (.rffeWrite v) (fun s => s.withRffe v) (fun s => s.freeRffe) s

/-- `PhyGetPort(d)` (R58). -/
def phyGetPort (d : Dir) (s : State) : Res PortId :=
  (callRead (.phyGetPort d) s).bind fun _ s => .done (s.port.get d) s

/-- `PhySetPort(d, p)` (R58). -/
def phySetPort (d : Dir) (p : PortId) (s : State) : Res Unit :=
  callWith (.phySetPort d p) (fun s => s.withPort d p) (fun s => s.freePort d) s

/-- `PhyGetLo(d)` (R58). -/
def phyGetLo (d : Dir) (s : State) : Res Freq :=
  (callRead (.phyGetLo d) s).bind fun _ s => .done (s.loFreq.get d) s

/-- `PhySetLo(d, f)` (R58). -/
def phySetLo (d : Dir) (f : Freq) (s : State) : Res Unit :=
  callWith (.phySetLo d f) (fun s => s.withLo d f) (fun s => s.freeLo d) s

/-- `BackendEnable(d, e)` (R59). -/
def backendEnable (d : Dir) (e : Bool) (s : State) : Res Unit :=
  callWith (.backendEnable d e) (fun s => s.withModEn d e) (fun s => s.freeModEn d) s

/-- `StreamTeardown(d)` (R60): it has no failure, so it takes no status. -/
def streamTeardown (d : Dir) (s : State) : State :=
  (s.logged (.streamTeardown d)).withHandle d false

end Sys2Proof.Machine
end

