-- ==== Sys2Proof/Machine/Flags.lean ====
section
/-!
DEFINITION. The flag-like state of the block (10_state rules R24, R27, R28): the enable bits and
antenna fields of the RFFE register, and the force bits.
-/

namespace Sys2Proof

/-- `r[EN_BIT[d]]` (10_state rule R24). -/
def Cfg.enabledIn (c : Cfg) (d : Dir) (r : Rffe) : Bool :=
  r.testBit (c.enBit.get d)

/-- `r with [EN_BIT[d]] <- e` (43_module_enable rules R202 and R203). -/
def Cfg.withEnable (c : Cfg) (d : Dir) (e : Bool) (r : Rffe) : Rffe :=
  Machine.setNatBit (c.enBit.get d) r e

/-- `r[AntField(d)]` (41_band_port rule R134). -/
def Cfg.antennaIn (c : Cfg) (d : Dir) (r : Rffe) : Rffe :=
  Machine.natField (c.antLsb.get d) c.antW r

/-- `r with [AntField(d)] <- ANT_CODE[d][b]` (41_band_port rule R135). -/
def Cfg.withAntenna (c : Cfg) (d : Dir) (b : Band) (r : Rffe) : Rffe :=
  Machine.setNatField (c.antLsb.get d) c.antW r (c.antCodeOf d b)

namespace Machine

/-- `rffe.EN[d]`. -/
def State.enabled (s : State) (d : Dir) : Bool :=
  s.cfg.enabledIn d s.rffe

/-- `rffe.ANT[d]`. -/
def State.antenna (s : State) (d : Dir) : Rffe :=
  s.cfg.antennaIn d s.rffe

/-- The force bit of `(ch, kind, band)` (10_state rule R28). -/
def State.forced (s : State) (ch : Chan) (kind : Kind) (b : CorrBand) : Bool :=
  (s.feAt (s.cfg.forceReg.get ch)).getLsbD (s.cfg.forceBitOf ch kind b)

/-- A force register's byte with one bit set: `x | (1 << n)` (42_calibration rule R176). -/
def withForceBit (n : Nat) (x : Byte) : Byte :=
  x ||| ((1 : Byte) <<< n)

/-- `ForceSet(ch, kind, b)` (42_calibration rule R176): a read-modify-write, issued even when the bit
is already 1. -/
def forceSet (ch : Chan) (kind : Kind) (b : CorrBand) (s : State) : Res Unit :=
  (spiRead (s.cfg.forceReg.get ch) s).bind fun x s =>
  spiWrite (s.cfg.forceReg.get ch) (withForceBit (s.cfg.forceBitOf ch kind b) x) s

end Machine

end Sys2Proof
end

