-- ==== Sys2Proof/Machine/BandPort.lean ====
section
/-!
DEFINITION. Band and RF-port selection (41_band_port): the routine `SelectBand` and `SELECT_BAND`,
`SET_FREQUENCY`, `SET_RF_PORT`, `GET_RF_PORT`.
-/

namespace Sys2Proof.Machine

/-- `SelectBand(ch, f)` (R135): read `rffe`, take the band from the enable bit and the frequency, push
the port, write `rffe` back with the antenna field replaced. -/
def selectBand (ch : Chan) (f : Freq) (s : State) : Res Unit :=
  (rffeRead s).bind fun r s =>
  let d := ch.dir
  let b := s.cfg.bandFor d (s.cfg.enabledIn d r) f
  (phySetPort d (s.cfg.portOf d b) s).bind fun _ s =>
  rffeWrite (s.cfg.withAntenna d b r) s

/-- `SELECT_BAND ch, freq` (R136). The frequency is not validated. -/
def execSelectBand (ch : BitVec 8) (freq : Freq) (s : State) : Host.Outcome State Fault Refusal :=
  answer <|
    gate .fpgaLoaded s fun s =>
    withChan ch s fun c s =>
    (selectBand c freq s).bind fun _ s => .done 0 s

/-- `SET_FREQUENCY ch, freq` (R138). The frequency is refused, never clamped; a failure after
`PhySetLo` does not undo it (R139). -/
def execSetFrequency (ch : BitVec 8) (freq : Freq) (s : State) : Host.Outcome State Fault Refusal :=
  answer <|
    gate .initialized s fun s =>
    withChan ch s fun c s =>
    require ((s.cfg.freqRange.get c.dir).contains (freq.toNat : Int)) .range s fun s =>
    (phySetLo c.dir freq s).bind fun _ s =>
    (selectBand c freq s).bind fun _ s => .done 0 s

/-- `SET_RF_PORT ch, portid` (R140). It does not touch `rffe`. -/
def execSetRfPort (ch : BitVec 8) (portid : PortId) (s : State) : Host.Outcome State Fault Refusal :=
  answer <|
    gate .initialized s fun s =>
    withChan ch s fun c s =>
    require (s.cfg.portValid c.dir portid) .inval s fun s =>
    (phySetPort c.dir portid s).bind fun _ s => .done 0 s

/-- `GET_RF_PORT ch` (R141). An id outside the table is `ERR_UNEXPECTED`. -/
def execGetRfPort (ch : BitVec 8) (s : State) : Host.Outcome State Fault Refusal :=
  answer <|
    gate .initialized s fun s =>
    withChan ch s fun c s =>
    (phyGetPort c.dir s).bind fun p s =>
    require (s.cfg.portValid c.dir p) .unexpected s fun s => .done (p.setWidth 64) s

end Sys2Proof.Machine
end

