-- ==== Sys2Proof/Machine/Bringup.lean ====
section
/-!
DEFINITION. Bring-up (40_bringup): `FW_DETECTED`, `FPGA_LOADED`, `INIT`, `CLOSE`.
-/

namespace Sys2Proof.Machine

/-- "Transitions only move forward": the board state becomes `b` if it is below it (R110, R111). -/
def State.advanceTo (s : State) (b : BoardState) : State :=
  if s.bstate.code < b.code then s.withBstate b else s

/-- `FW_DETECTED` (R110). -/
def execFwDetected (s : State) : Host.Outcome State Fault Refusal :=
  answer (.done 0 (s.advanceTo .firmwareLoaded))

/-- `FPGA_LOADED` (R111). What loading an image does behind the backend is not in the source: `rffe`
and both `mod_en` become any value. -/
def execFpgaLoaded (s : State) : Host.Outcome State Fault Refusal :=
  answer <|
    gate .firmwareLoaded s fun s =>
    .done 0 (((s.advanceTo .fpgaLoaded).freeRffe.freeModEn .rx).freeModEn .tx)

/-- Step 2 of `INIT` (R114): the front end is constructed. Its registers and ports are any value, its
frequencies the defaults. -/
def constructFrontEnd (s : State) : State :=
  ((((s.freeFeOutside fun _ => 0).freePort .rx).freePort .tx).withLo .rx s.cfg.loDefault.rx).withLo .tx
    s.cfg.loDefault.tx

/-- One half of the priming of `INIT` (R114, steps 3 and 4): band selection at the direction's current
frequency. -/
def primeBand (ch : Chan) (s : State) : Res Unit :=
  (phyGetLo ch.dir s).bind fun f s => selectBand ch f s

/-- `INIT` (R114). A failing primitive ends it with `bstate` as it was (R115). -/
def execInit (s : State) : Host.Outcome State Fault Refusal :=
  answer <|
    gate .fpgaLoaded s fun s =>
    (rffeWrite s.cfg.rffeInit s).bind fun _ s =>
    (primeBand .rx1 (constructFrontEnd s)).bind fun _ s =>
    (primeBand .tx1 s).bind fun _ s =>
    .done 0 (s.withBstate .initialized)

/-- Every field a collaborator holds, the stream handles apart, becomes any value (R116). -/
def State.freeCollaborators (s : State) : State :=
  ((((((((s.freeRffe).freeFeOutside fun _ => 0).freePort .rx).freePort .tx).freeLo .rx).freeLo
    .tx).freeModEn .rx).freeModEn .tx)

/-- `CLOSE` (R116): the reset of 10_state rule R33. -/
def execClose (s : State) : Host.Outcome State Fault Refusal :=
  answer (.done 0 (((s.freeCollaborators.withHandle .rx false).withHandle .tx false).withBstate
    .uninitialized))

end Sys2Proof.Machine
end

