-- ==== Sys2Proof/Machine/Calibration.lean ====
section
/-!
DEFINITION. The calibration codec (42_calibration): `GET_CORRECTION` and `SET_CORRECTION`.
-/

namespace Sys2Proof.Machine

/-- The band of a correction: the class of the direction's active port, asked afresh; an unclassified
port raises `ERR_UNSUPPORTED` (R161). -/
def corrBandNow (d : Dir) (s : State) : Res CorrBand :=
  (phyGetPort d s).bind fun p s =>
  match s.cfg.corrBandOfPort d p with
  | some b => .done b s
  | none => .raised .unsupported s

/-- The logical value a storage place holds (R178): scheme P reads top then bottom, scheme S one
register. -/
def readCorr (slot : Slot) (b : CorrBand) (s : State) : Res Int :=
  match slot with
  | .pair e =>
    (spiRead (e.reg.get b).top s).bind fun t s =>
    (spiRead (e.reg.get b).bot s).bind fun m s =>
    .done (decodeRxDc (unpack e.layout t m)) s
  | .single e =>
    (spiRead (e.reg.get b) s).bind fun x s => .done (decode8 x e.shift) s

/-- Store a logical value (R179): scheme P reads both registers and writes both, top first; scheme S
writes its register whole, unread. -/
def writeCorr (slot : Slot) (b : CorrBand) (v : BitVec 16) (s : State) : Res Unit :=
  match slot with
  | .pair e =>
    (spiRead (e.reg.get b).top s).bind fun t s =>
    (spiRead (e.reg.get b).bot s).bind fun m s =>
    (spiWrite (e.reg.get b).top (packTop e.layout t (encodeRxDc v)) s).bind fun _ s =>
    spiWrite (e.reg.get b).bot (packBot e.layout m (encodeRxDc v)) s
  | .single e => spiWrite (e.reg.get b) (encode8 v e.shift) s

/-- `GET_CORRECTION ch, kind` (R178). -/
def execGetCorrection (ch kind : BitVec 8) (s : State) : Host.Outcome State Fault Refusal :=
  answer <|
    gate .initialized s fun s =>
    withChan ch s fun c s =>
    withKind kind s fun k s =>
    (corrBandNow c.dir s).bind fun b s =>
    (readCorr (s.cfg.slot c k) b s).bind fun v s => .done (resultOfValue v) s

/-- `SET_CORRECTION ch, kind, value` (R179): the value first, the force bit last. -/
def execSetCorrection (ch kind : BitVec 8) (value : BitVec 16) (s : State) :
    Host.Outcome State Fault Refusal :=
  answer <|
    gate .initialized s fun s =>
    withChan ch s fun c s =>
    withKind kind s fun k s =>
    (corrBandNow c.dir s).bind fun b s =>
    (writeCorr (s.cfg.slot c k) b value s).bind fun _ s =>
    (forceSet c k b s).bind fun _ s => .done 0 s

end Sys2Proof.Machine
end

