-- ==== Sys2Proof/Machine/PhyLoop.lean ====
section
/-!
DEFINITION. What the front end may change behind the block: which register bits hold between two
commands (10_state rule R31, 20_memory rule R62, 93 U4 and U6), and the calibration loop that gives
every other bit any value.
-/

namespace Sys2Proof

/-- One correction's field in one register: the register and the bits. -/
structure CorrField where
  ch : Chan
  kind : Kind
  band : CorrBand
  reg : RegAddr
  bits : Byte
  deriving DecidableEq, Repr

/-- The registers and bits one correction is stored in: scheme S a whole register, scheme P a field
in each register of the pair (42_calibration rules R162 and R169). -/
def Cfg.fieldsOf (c : Cfg) (ch : Chan) (kind : Kind) (b : CorrBand) : List CorrField :=
  match c.slot ch kind with
  | .single e => [⟨ch, kind, b, e.reg.get b, 0xFF⟩]
  | .pair e =>
    [⟨ch, kind, b, (e.reg.get b).top, Machine.fieldMask 8 e.layout.topLo e.layout.topN⟩,
      ⟨ch, kind, b, (e.reg.get b).bot, Machine.fieldMask 8 e.layout.botLo e.layout.botN⟩]

/-- Every field of every correction (10_state rule R26). -/
def Cfg.corrFields (c : Cfg) : List CorrField :=
  Chan.all.flatMap fun ch => Kind.all.flatMap fun k => CorrBand.all.flatMap fun b => c.fieldsOf ch k b

/-- The fields that lie in register `a`. -/
def Cfg.fieldsAt (c : Cfg) (a : Nat) : List CorrField :=
  c.corrFields.filter fun f => decide (f.reg.toNat = a)

/-- Whether `a` is a force-bits register. -/
def Cfg.isForceReg (c : Cfg) (a : Nat) : Bool :=
  Chan.all.any fun ch => decide ((c.forceReg.get ch).toNat = a)

/-- Whether `a` is in one of the three groups of 10_state rule R26; every other register is
opaque. -/
def Cfg.knownReg (c : Cfg) (a : Nat) : Bool :=
  c.isForceReg a || !(c.fieldsAt a).isEmpty

namespace Machine

/-- The force bit of the correction a field belongs to. -/
def State.fieldForced (s : State) (f : CorrField) : Bool :=
  s.forced f.ch f.kind f.band

/-- Whether the front end leaves the whole of register `a` alone: a force register, and a correction
register whose corrections are all forced (93 U4). -/
def State.holdsWhole (s : State) (a : Nat) : Bool :=
  s.cfg.isForceReg a || !(s.cfg.fieldsAt a).isEmpty && (s.cfg.fieldsAt a).all s.fieldForced

/-- The bits of register `a` that a write to an opaque register leaves alone: all of a register that
holds whole, none of any other, one that a forced and an unforced correction share among them
(44_lowlevel rule R224, 93 U4 and U6). -/
def State.heldWhole (s : State) (a : Nat) : Byte :=
  if s.holdsWhole a then 0xFF else 0

/-- The bits of register `a` the front end leaves alone between two commands: all of a register that
holds whole, else the fields of the forced corrections in it (log 9). An opaque register holds nothing
(93 U6). -/
def State.heldBits (s : State) (a : Nat) : Byte :=
  if s.holdsWhole a then 0xFF
  else (s.cfg.fieldsAt a).foldl (fun m f => if s.fieldForced f then m ||| f.bits else m) 0

/-- Every register bit that does not hold gets any value: unforced correction registers and opaque
registers (R31, U4, U6). -/
def State.freeUnheld (s : State) : State :=
  s.freeFeOutside s.heldBits

/-- What happens at the front end between two commands. Before the front end is constructed no
register holds (44_lowlevel rule R223, log 10); from then on the held bits hold. -/
def State.phyLoop (s : State) : State :=
  if s.bstate = .initialized then s.freeUnheld else s.freeFeOutside fun _ => 0

end Machine

end Sys2Proof
end

