-- ==== Sys2Proof/Machine/LowLevel.lean ====
section
/-!
DEFINITION. Low-level register access (44_lowlevel): `REG_READ` and `REG_WRITE`.
-/

namespace Sys2Proof.Machine

/-- The checks both commands share: the gate at `REG_MIN_STATE`, then the address width (R222). -/
def withRegister {α : Type} (addr : RegAddr) (s : State) (k : State → Res α) : Res α :=
  gate s.cfg.regMinState s fun s => require (s.cfg.feHas addr) .inval s k

/-- What a write to an opaque register may set in motion (R224, 93 U6): both ports, both frequencies,
every opaque register and every unforced correction register become any value, whole. A register is
forced only if every correction with a field in it is (93 U4). -/
def State.opaqueWritten (s : State) : State :=
  ((((s.freeFeOutside s.heldWhole).freePort .rx).freePort .tx).freeLo .rx).freeLo .tx

/-- `REG_READ addr` (R223). -/
def execRegRead (addr : RegAddr) (s : State) : Host.Outcome State Fault Refusal :=
  answer <|
    withRegister addr s fun s =>
    (spiRead addr s).bind fun x s => .done (x.setWidth 64) s

/-- `REG_WRITE addr, data` (R224). A write to a register of 10_state rule R26 stores the byte and
nothing else happens. -/
def execRegWrite (addr : RegAddr) (data : Byte) (s : State) : Host.Outcome State Fault Refusal :=
  answer <|
    withRegister addr s fun s =>
    (spiWrite addr data s).bind fun _ s =>
    .done 0 (if s.cfg.knownReg addr.toNat then s else s.opaqueWritten)

end Sys2Proof.Machine
end

