-- ==== Sys2Proof/Machine/ModuleEnable.lean ====
section
/-!
DEFINITION. Module enable and disable (43_module_enable): `ENABLE_MODULE`, `DISABLE_MODULE`,
`SYNC_CONFIG`.
-/

namespace Sys2Proof.Machine

/-- The RFFE value the orchestrator writes: enable bit and antenna field of a direction together
(R201). -/
def moduleRffe (c : Cfg) (d : Dir) (e : Bool) (b : Band) (r : Rffe) : Rffe :=
  c.withAntenna d b (c.withEnable d e r)

/-- `ENABLE_MODULE ch` (R202). The band is that of the current frequency with enabled = 1, whatever
the enable bit read. -/
def execEnableModule (ch : BitVec 8) (s : State) : Host.Outcome State Fault Refusal :=
  answer <|
    gate .initialized s fun s =>
    withChan ch s fun c s =>
    (phyGetLo c.dir s).bind fun f s =>
    (phySetPort c.dir (s.cfg.portOf c.dir (s.cfg.bandFor c.dir true f)) s).bind fun _ s =>
    (rffeRead s).bind fun r s =>
    (rffeWrite (moduleRffe s.cfg c.dir true (s.cfg.bandFor c.dir true f) r) s).bind fun _ s =>
    (backendEnable c.dir true s).bind fun _ s => .done 0 s

/-- `DISABLE_MODULE ch` (R203). The stream handle is torn down first (R204); no port is pushed. -/
def execDisableModule (ch : BitVec 8) (s : State) : Host.Outcome State Fault Refusal :=
  answer <|
    gate .initialized s fun s =>
    withChan ch s fun c s =>
    (rffeRead (streamTeardown c.dir s)).bind fun r s =>
    (rffeWrite (moduleRffe s.cfg c.dir false .shutdown r) s).bind fun _ s =>
    (backendEnable c.dir false s).bind fun _ s => .done 0 s

/-- `SYNC_CONFIG ch` (R205). It does not look at the enable bit. -/
def execSyncConfig (ch : BitVec 8) (s : State) : Host.Outcome State Fault Refusal :=
  answer <|
    gate .initialized s fun s =>
    withChan ch s fun c s =>
    .done 0 (s.withHandle c.dir true)

end Sys2Proof.Machine
end

