-- ==== Sys2Proof/Machine/Dispatch.lean ====
section
/-!
DEFINITION. What each command does: one arm per row of spec/opcode_table.json.
-/

namespace Sys2Proof.Machine

-- The meaning of a command, at the state it finds.
def exec (i : Instr) (s : State) : Host.Outcome State Fault Refusal :=
  match i with
  | .fwDetected => Sys2Proof.Machine.execFwDetected s
  | .fpgaLoaded => Sys2Proof.Machine.execFpgaLoaded s
  | .init => Sys2Proof.Machine.execInit s
  | .close => Sys2Proof.Machine.execClose s
  | .selectBand ch freq => Sys2Proof.Machine.execSelectBand ch freq s
  | .setFrequency ch freq => Sys2Proof.Machine.execSetFrequency ch freq s
  | .setRfPort ch portid => Sys2Proof.Machine.execSetRfPort ch portid s
  | .getRfPort ch => Sys2Proof.Machine.execGetRfPort ch s
  | .getCorrection ch kind => Sys2Proof.Machine.execGetCorrection ch kind s
  | .setCorrection ch kind value => Sys2Proof.Machine.execSetCorrection ch kind value s
  | .enableModule ch => Sys2Proof.Machine.execEnableModule ch s
  | .disableModule ch => Sys2Proof.Machine.execDisableModule ch s
  | .syncConfig ch => Sys2Proof.Machine.execSyncConfig ch s
  | .regRead addr => Sys2Proof.Machine.execRegRead addr s
  | .regWrite addr data => Sys2Proof.Machine.execRegWrite addr data s

end Sys2Proof.Machine
end

