-- ==== Sys2Proof/WellFormed.lean ====
section
/-!
DEFINITION. Which commands name a channel and a kind that exist (30_encoding rule R81, "legal
values"). Every other operand field admits all its values. An ill-formed command is still a command:
it is executed and answered with `ERR_INVAL` (rule R83 c).
-/

namespace Sys2Proof

/-- A channel operand is 0 to 3 (R81). -/
def chanLegal (ch : BitVec 8) : Bool :=
  (Chan.ofCode ch).isSome

/-- A kind operand is 0 to 3 (R81). -/
def kindLegal (kind : BitVec 8) : Bool :=
  (Kind.ofCode kind).isSome

/-- The legal operands of R81, checked where the command uses the field (R83). -/
def Instr.wellFormed : Instr → Bool
  | .fwDetected => true
  | .fpgaLoaded => true
  | .init => true
  | .close => true
  | .selectBand ch _ => chanLegal ch
  | .setFrequency ch _ => chanLegal ch
  | .setRfPort ch _ => chanLegal ch
  | .getRfPort ch => chanLegal ch
  | .getCorrection ch kind => chanLegal ch && kindLegal kind
  | .setCorrection ch kind _ => chanLegal ch && kindLegal kind
  | .enableModule ch => chanLegal ch
  | .disableModule ch => chanLegal ch
  | .syncConfig ch => chanLegal ch
  | .regRead _ => true
  | .regWrite _ _ => true

end Sys2Proof
end

