-- ==== Sys2Proof/Decode.lean ====
section
/-!
DEFINITION. Decoding and encoding of commands (30_encoding rules R81 to R84).
-/

namespace Sys2Proof

/-! The fields of format `C` (R81). -/

def Command.op (c : Command) : BitVec 8 := c.cw.extractLsb' 24 8
def Command.ch (c : Command) : BitVec 8 := c.cw.extractLsb' 16 8
def Command.kind (c : Command) : BitVec 8 := c.cw.extractLsb' 8 8
def Command.rsv (c : Command) : BitVec 8 := c.cw.extractLsb' 0 8
def Command.freq (c : Command) : Freq := c.arg
def Command.value (c : Command) : BitVec 16 := c.arg.extractLsb' 0 16
def Command.portid (c : Command) : PortId := c.arg.extractLsb' 0 32
def Command.addr (c : Command) : RegAddr := c.arg.extractLsb' 0 16
def Command.data (c : Command) : Byte := c.arg.extractLsb' 16 8

/-- Why a command word is no command: its `op` is not in the opcode map (R83 a). -/
inductive DecodeError where
  | unknownOp (op : BitVec 8)
  deriving DecidableEq, Repr

/-- The command a `(CW, ARG)` pair stands for. `op` alone selects it; fields it does not use are
ignored (R83 b, R84). -/
def decode (c : Command) : Except DecodeError Instr :=
  match c.op.toNat with
  | 0x01 => .ok .fwDetected
  | 0x02 => .ok .fpgaLoaded
  | 0x03 => .ok .init
  | 0x04 => .ok .close
  | 0x10 => .ok (.selectBand c.ch c.freq)
  | 0x11 => .ok (.setFrequency c.ch c.freq)
  | 0x12 => .ok (.setRfPort c.ch c.portid)
  | 0x13 => .ok (.getRfPort c.ch)
  | 0x20 => .ok (.getCorrection c.ch c.kind)
  | 0x21 => .ok (.setCorrection c.ch c.kind c.value)
  | 0x30 => .ok (.enableModule c.ch)
  | 0x31 => .ok (.disableModule c.ch)
  | 0x32 => .ok (.syncConfig c.ch)
  | 0x40 => .ok (.regRead c.addr)
  | 0x41 => .ok (.regWrite c.addr c.data)
  | _ => .error (.unknownOp c.op)

/-- A command word from its fields; `rsv` is assembled as zero (R88). -/
def assembleCw (op ch kind : BitVec 8) : BitVec 32 :=
  op ++ ch ++ kind ++ (0 : BitVec 8)

/-- The `(CW, ARG)` pair of a command, unused fields zero (R81, R84, R88). -/
def encode : Instr → Command
  | .fwDetected => ⟨assembleCw 0x01 0 0, 0⟩
  | .fpgaLoaded => ⟨assembleCw 0x02 0 0, 0⟩
  | .init => ⟨assembleCw 0x03 0 0, 0⟩
  | .close => ⟨assembleCw 0x04 0 0, 0⟩
  | .selectBand ch freq => ⟨assembleCw 0x10 ch 0, freq⟩
  | .setFrequency ch freq => ⟨assembleCw 0x11 ch 0, freq⟩
  | .setRfPort ch portid => ⟨assembleCw 0x12 ch 0, portid.setWidth 64⟩
  | .getRfPort ch => ⟨assembleCw 0x13 ch 0, 0⟩
  | .getCorrection ch kind => ⟨assembleCw 0x20 ch kind, 0⟩
  | .setCorrection ch kind value => ⟨assembleCw 0x21 ch kind, value.setWidth 64⟩
  | .enableModule ch => ⟨assembleCw 0x30 ch 0, 0⟩
  | .disableModule ch => ⟨assembleCw 0x31 ch 0, 0⟩
  | .syncConfig ch => ⟨assembleCw 0x32 ch 0, 0⟩
  | .regRead addr => ⟨assembleCw 0x40 0 0, addr.setWidth 64⟩
  | .regWrite addr data => ⟨assembleCw 0x41 0 0, (data ++ addr).setWidth 64⟩

/-- The 96-bit command whose low `nbits` bits are `w` and whose other bits are zero: bits 31..0 are
`CW`, bits 95..32 are `ARG`. -/
def commandOfTableWord (nbits w : Nat) : Command :=
  let v := w % 2 ^ nbits
  ⟨BitVec.ofNat 32 v, BitVec.ofNat 64 (v / 2 ^ 32)⟩

/-- What the decoder reads from a row's word of spec/opcode_table.json. -/
def decodeTableWord (nbits w : Nat) : Option Instr :=
  match decode (commandOfTableWord nbits w) with
  | .ok i => some i
  | .error _ => none

end Sys2Proof
end

