-- ==== Sys2Proof/Machine/Fetch.lean ====
section
/-!
DEFINITION. Taking the next command from the command port (20_memory rule R52, 30_encoding rule
R80).
-/

namespace Sys2Proof.Machine

/-- The next command has left the command port. -/
def State.taken (s : State) : State :=
  { s with pending := s.pending.tail }

/-- The state in which a command finds the machine: the command has left the port, and the front end
has had its time between two commands (20_memory rule R62; log 8). -/
def State.commandStart (s : State) : State :=
  s.taken.phyLoop

/-- A command put on the command port ahead of those already there. -/
def State.issue (s : State) (c : Command) : State :=
  { s with pending := c :: s.pending }

end Sys2Proof.Machine
end

