-- ==== Sys2Proof/Machine/Step.lean ====
section
/-!
DEFINITION. One step of the machine: one command of the command port, from its issue to its response
(00_scope rules R6 and R7, 20_memory rule R52).
-/

namespace Sys2Proof.Machine

/-- One step. With no command issued the block does not move (00_scope rule R6). A word whose `op` is
no command is answered with `ERR_INVAL` (30_encoding rule R83 a). -/
def step (s : State) : Host.Outcome State Fault Refusal :=
  match s.pending with
  | [] => .next s
  | c :: _ =>
    match decode c with
    | .ok i => exec i s.commandStart
    | .error _ => illegalOp s.commandStart

/-- `s` with the row's command, bits above `nbits` zero, issued as the next one. -/
def State.withFetchWord (s : State) (nbits w : Nat) : State :=
  s.issue (commandOfTableWord nbits w)

end Sys2Proof.Machine
end

