-- ==== Sys2Proof/Machine/Legal.lean ====
section
/-!
DEFINITION. The constraints a legal `Cfg` meets: the "Constraint" column of 00_scope rule R9, one
check per group of fields.
-/

namespace Sys2Proof

/-- No two entries of a list are equal. -/
def distinct {α : Type} [DecidableEq α] : List α → Bool
  | [] => true
  | x :: xs => !xs.contains x && distinct xs

/-- The two half-open spans `[lo, lo + n)` and `[lo', lo' + n')` do not meet. -/
def spansApart (lo n lo' n' : Nat) : Bool :=
  decide (lo + n ≤ lo') || decide (lo' + n' ≤ lo)

/-- `FE_ADDR_BITS` is 1 to 15. -/
def Cfg.addrBitsLegal (c : Cfg) : Bool :=
  decide (1 ≤ c.feAddrBits) && decide (c.feAddrBits ≤ 15)

/-- The fields of the RFFE register fit it and do not meet: enable bits distinct and outside both
antenna fields, antenna fields disjoint, `ANT_W >= 4`. -/
def Cfg.rffeFieldsLegal (c : Cfg) : Bool :=
  decide (4 ≤ c.antW)
  && decide (c.enBit.rx < c.rffeBits) && decide (c.enBit.tx < c.rffeBits)
  && decide (c.antLsb.rx + c.antW ≤ c.rffeBits) && decide (c.antLsb.tx + c.antW ≤ c.rffeBits)
  && decide (c.enBit.rx ≠ c.enBit.tx)
  && spansApart c.antLsb.rx c.antW c.antLsb.tx c.antW
  && spansApart c.antLsb.rx c.antW c.enBit.rx 1 && spansApart c.antLsb.rx c.antW c.enBit.tx 1
  && spansApart c.antLsb.tx c.antW c.enBit.rx 1 && spansApart c.antLsb.tx c.antW c.enBit.tx 1

/-- Every antenna code fits `ANT_W`. -/
def Cfg.antCodesLegal (c : Cfg) : Bool :=
  [c.antCode.rx, c.antCode.tx].all fun t =>
    decide (t.shutdown < 2 ^ c.antW) && decide (t.low < 2 ^ c.antW)
      && decide (t.high < 2 ^ c.antW)

/-- `RFFE_INIT` fits the register and has both enable bits clear (40_bringup rule R113). -/
def Cfg.rffeInitLegal (c : Cfg) : Bool :=
  decide (c.rffeInit < 2 ^ c.rffeBits) && !c.rffeInit.testBit c.enBit.rx
    && !c.rffeInit.testBit c.enBit.tx

/-- The band table of either direction is `Low` on `[0, F_BOUNDARY - 1]` and `High` on
`[F_BOUNDARY, F_BAND_MAX]`, step 1, scale 1 (41_band_port rule R132, 90_conflicts C3, 92 D17; log 29). -/
def Cfg.bandTablesStandard (c : Cfg) : Bool :=
  decide (c.bandTable.rx = bandTableOf c.fBoundary c.fBandMax)
    && decide (c.bandTable.tx = bandTableOf c.fBoundary c.fBandMax)

/-- `200,000,000 < F_BOUNDARY <= 4,000,000,000 <= F_BAND_MAX`, and the band tables are those of the
boundary and the top. -/
def Cfg.bandsLegal (c : Cfg) : Bool :=
  decide (200000000 < c.fBoundary) && decide (c.fBoundary ≤ 4000000000)
    && decide (4000000000 ≤ c.fBandMax) && c.bandTablesStandard

/-- `min <= max` for `FREQ_RANGE`, and `LO_DEFAULT` lies inside it. -/
def Cfg.freqLegal (c : Cfg) : Bool :=
  [Dir.rx, Dir.tx].all fun d =>
    decide ((c.freqRange.get d).min ≤ (c.freqRange.get d).max)
      && decide (0 < (c.freqRange.get d).scale)
      && (c.freqRange.get d).contains ((c.loDefault.get d).toNat : Int)

/-- Port ids are distinct per direction; the Shutdown port is 0; the ports of `Low` and `High` are
valid and classify as their own band (R9, R161). Whether 0 is valid or classified is a parameter
(93 U5). -/
def Cfg.portsLegal (c : Cfg) : Bool :=
  distinct (c.rxPorts.aBalanced :: c.rxPorts.bBalanced :: c.rxPorts.cBalanced :: c.rxPorts.others)
    && distinct [c.txPorts.txa, c.txPorts.txb]
    && [Dir.rx, Dir.tx].all fun d =>
      decide (c.portOf d .shutdown = 0)
        && c.portValid d (c.portOf d .low) && c.portValid d (c.portOf d .high)
        && decide (c.corrBandOfPort d (c.portOf d .low) = some .low)
        && decide (c.corrBandOfPort d (c.portOf d .high) = some .high)

/-- The shape of a layout (42_calibration rule R169). -/
def Layout.legal (l : Layout) : Bool :=
  decide (2 ≤ l.topN) && decide (l.topN ≤ 8) && decide (l.topN + l.botN = 10)
    && decide (l.topLo + l.topN ≤ 8) && decide (l.botLo + l.botN ≤ 8)

/-- The addresses of a storage place exist; a shift is 5 or 6; a layout has its shape. -/
def Cfg.slotLegal (c : Cfg) : Slot → Bool
  | .single e =>
    c.feHas e.reg.low && c.feHas e.reg.high && (decide (e.shift = 5) || decide (e.shift = 6))
  | .pair e =>
    c.feHas e.reg.low.top && c.feHas e.reg.low.bot && c.feHas e.reg.high.top
      && c.feHas e.reg.high.bot && e.layout.legal

/-- Every correction's storage is legal, and `CORR_SHIFT[TX1][DC_I]` is 5 (R163, R181). -/
def Cfg.corrLegal (c : Cfg) : Bool :=
  (Chan.all.all fun ch => Kind.all.all fun k => c.slotLegal (c.slot ch k))
    && decide (c.corr.tx1.dcI.shift = 5)

/-- `FORCE_REG` exists and `FORCE_BIT` is 0 to 7. -/
def Cfg.forceLegal (c : Cfg) : Bool :=
  Chan.all.all fun ch => c.feHas (c.forceReg.get ch)
    && Kind.all.all fun k => CorrBand.all.all fun b => decide (c.forceBitOf ch k b < 8)

/-- `ERR_*` are negative and distinct (R241). -/
def Cfg.errLegal (c : Cfg) : Bool :=
  Err.all.all (fun e => (c.errCode e).msb) && distinct (Err.all.map c.errCode)

/-- A legal `Cfg`: every constraint of 00_scope rule R9. -/
def Cfg.legal (c : Cfg) : Bool :=
  c.addrBitsLegal && c.rffeFieldsLegal && c.antCodesLegal && c.rffeInitLegal && c.bandsLegal
    && c.freqLegal && c.portsLegal && c.corrLegal && c.forceLegal && c.errLegal

/-- The three groups of 10_state rule R26 do not meet where the codec needs them apart: no register
of the correction is a force register, and a pair has two registers. DEDUCED (log 26). -/
def Cfg.slotApart (c : Cfg) (ch : Chan) (k : Kind) (b : CorrBand) : Bool :=
  Chan.all.all fun ch' =>
    match c.slot ch k with
    | .single e => decide (e.reg.get b ≠ c.forceReg.get ch')
    | .pair e =>
      decide ((e.reg.get b).top ≠ c.forceReg.get ch')
        && decide ((e.reg.get b).bot ≠ c.forceReg.get ch')
        && decide ((e.reg.get b).top ≠ (e.reg.get b).bot)

end Sys2Proof
end

