-- ==== Sys2Proof/Safety.lean ====
section
/-!
DEFINITION. The terms the statements use: which calls succeed, the invariant, the minimum board
state of a command, the fields a command uses, and success of a response.
-/

namespace Sys2Proof

open Machine

/-- The next `n` primitive calls succeed. -/
def Machine.State.nextCallsSucceed (s : State) (n : Nat) : Prop :=
  ∀ r ∈ s.replies.take n, 0 ≤ r

/-- The response port shows success, `STATUS = 0`. -/
def Machine.State.succeeded (s : State) : Prop :=
  ∃ v, s.response = some ⟨0, v⟩

/-- What every step keeps: the configuration is legal, the front-end registers are in canonical form
and inside the `FE` space, and the RFFE register has no bit from `RFFE_BITS` up. -/
structure Machine.State.Inv (s : State) : Prop where
  cfgLegal : s.cfg.legal = true
  feCanonical : feWf s.fe = true
  feInside : feWithin (2 ^ s.cfg.feAddrBits) s.fe = true
  rffeFits : s.rffe < 2 ^ s.cfg.rffeBits

/-- A disabled direction has the Shutdown antenna code (10_state rule R25). -/
def Machine.State.shutWhenDisabled (s : State) (d : Dir) : Prop :=
  s.enabled d = false → s.antenna d = s.cfg.antCodeOf d .shutdown

/-- The minimum board state of a command (30_encoding rule R84). -/
def Cfg.minState (c : Cfg) : Instr → BoardState
  | .fwDetected => .uninitialized
  | .fpgaLoaded => .firmwareLoaded
  | .init => .fpgaLoaded
  | .close => .uninitialized
  | .selectBand _ _ => .fpgaLoaded
  | .setFrequency _ _ => .initialized
  | .setRfPort _ _ => .initialized
  | .getRfPort _ => .initialized
  | .getCorrection _ _ => .initialized
  | .setCorrection _ _ _ => .initialized
  | .enableModule _ => .initialized
  | .disableModule _ => .initialized
  | .syncConfig _ => .initialized
  | .regRead _ => c.regMinState
  | .regWrite _ _ => c.regMinState

/-- Whether a command uses the field `ch` (30_encoding rule R84). -/
def Instr.usesChan : Instr → Bool
  | .fwDetected => false
  | .fpgaLoaded => false
  | .init => false
  | .close => false
  | .selectBand _ _ => true
  | .setFrequency _ _ => true
  | .setRfPort _ _ => true
  | .getRfPort _ => true
  | .getCorrection _ _ => true
  | .setCorrection _ _ _ => true
  | .enableModule _ => true
  | .disableModule _ => true
  | .syncConfig _ => true
  | .regRead _ => false
  | .regWrite _ _ => false

/-- Whether a command uses the field `kind` (30_encoding rule R84). -/
def Instr.usesKind : Instr → Bool
  | .fwDetected => false
  | .fpgaLoaded => false
  | .init => false
  | .close => false
  | .selectBand _ _ => false
  | .setFrequency _ _ => false
  | .setRfPort _ _ => false
  | .getRfPort _ => false
  | .getCorrection _ _ => true
  | .setCorrection _ _ _ => true
  | .enableModule _ => false
  | .disableModule _ => false
  | .syncConfig _ => false
  | .regRead _ => false
  | .regWrite _ _ => false

/-- How many low bits of `ARG` a command uses (30_encoding rules R81 and R84). -/
def Instr.argBits : Instr → Nat
  | .fwDetected => 0
  | .fpgaLoaded => 0
  | .init => 0
  | .close => 0
  | .selectBand _ _ => 64
  | .setFrequency _ _ => 64
  | .setRfPort _ _ => 32
  | .getRfPort _ => 0
  | .getCorrection _ _ => 0
  | .setCorrection _ _ _ => 16
  | .enableModule _ => 0
  | .disableModule _ => 0
  | .syncConfig _ => 0
  | .regRead _ => 16
  | .regWrite _ _ => 24

/-- The channel of a command, where it has a legal one. -/
def Instr.chan? : Instr → Option Chan
  | .fwDetected => none
  | .fpgaLoaded => none
  | .init => none
  | .close => none
  | .selectBand ch _ => Chan.ofCode ch
  | .setFrequency ch _ => Chan.ofCode ch
  | .setRfPort ch _ => Chan.ofCode ch
  | .getRfPort ch => Chan.ofCode ch
  | .getCorrection ch _ => Chan.ofCode ch
  | .setCorrection ch _ _ => Chan.ofCode ch
  | .enableModule ch => Chan.ofCode ch
  | .disableModule ch => Chan.ofCode ch
  | .syncConfig ch => Chan.ofCode ch
  | .regRead _ => none
  | .regWrite _ _ => none

/-- Whether a command has a `RESULT` of its own; every other command's is 0 (30_encoding rule R86). -/
def Instr.returnsResult : Instr → Bool
  | .fwDetected => false
  | .fpgaLoaded => false
  | .init => false
  | .close => false
  | .selectBand _ _ => false
  | .setFrequency _ _ => false
  | .setRfPort _ _ => false
  | .getRfPort _ => true
  | .getCorrection _ _ => true
  | .setCorrection _ _ _ => false
  | .enableModule _ => false
  | .disableModule _ => false
  | .syncConfig _ => false
  | .regRead _ => true
  | .regWrite _ _ => false

/-- The granularity of a stored correction: 32 or 64 for one register, 8 for a packed pair
(42_calibration rules R166 and R174). -/
def Slot.granularity : Slot → Int
  | .single e => 2 ^ e.shift
  | .pair _ => 8

/-- The logical range of a stored correction is `-top .. top - 1` (42_calibration rules R164 and
R171). -/
def Slot.top : Slot → Int
  | .single e => 2 ^ (e.shift + 7)
  | .pair _ => 4096

/-- The opcode map's `op` values (30_encoding rule R84). -/
def opcodes : List (BitVec 8) :=
  [0x01, 0x02, 0x03, 0x04, 0x10, 0x11, 0x12, 0x13, 0x20, 0x21, 0x30, 0x31, 0x32, 0x40, 0x41]

end Sys2Proof
end

