-- ==== Sys2Proof/Certificates/Slice0/Obligations.lean ====
section
/-!
DEFINITION. The statements for the provers. Each docstring names the rule of spec/ it rests on.
-/

open Sys2Proof Sys2Proof.Machine

/-! ## Encoding -/

/-- Decoding an encoded command gives the command back, every operand at every value (30_encoding
rules R81, R82, R84). -/
def Obligations.DecodeOfEncode : Prop :=
  ∀ i : Instr, decode (encode i) = .ok i

/-- A field a command does not use has no effect on decoding (30_encoding rule R83 b). -/
def Obligations.DecodeIgnoresUnusedFields : Prop :=
  ∀ (c c' : Command) (i : Instr), decode c = .ok i → c'.op = c.op →
    (i.usesChan = true → c'.ch = c.ch) → (i.usesKind = true → c'.kind = c.kind) →
    (∀ n, n < i.argBits → c'.arg.getLsbD n = c.arg.getLsbD n) → decode c' = .ok i

/-- Exactly the fifteen opcodes of the map decode (30_encoding rules R83 a and R84). -/
def Obligations.OnlyMappedOpcodesDecode : Prop :=
  ∀ c : Command, (∃ i, decode c = .ok i) ↔ c.op ∈ opcodes

/-- Words written out from the encodings of 30_encoding rules R81 and R85 and of 95 section 2.1
decode to the commands they stand for. -/
def Obligations.SampleWordsDecode : Prop :=
  decode ⟨0x03000000, 0⟩ = .ok .init
    ∧ decode ⟨0x11000000, 0x00000000EE6B2800⟩ = .ok (.setFrequency 0 4000000000)
    ∧ decode ⟨0x21020100, 0x000000000000FFF8⟩ = .ok (.setCorrection 2 1 (BitVec.ofInt 16 (-8)))
    ∧ decode ⟨0x30010000, 0⟩ = .ok (.enableModule 1)
    ∧ decode ⟨0x41000000, 0x0000000000040182⟩ = .ok (.regWrite 0x182 0x04)

/-! ## The step -/

/-- A step runs the decoded command in the state the command finds. That state, for every word at the
head of the port, decodable or not: the word has left the port, and nothing else has changed but the
front end's registers, which the front end may rewrite between two commands, and the counter of free
values (20_memory rules R52 and R62; the model's reading, log 8). -/
def Obligations.StepRunsDecodedCommand : Prop :=
  ∀ (s : State) (c : Command) (rest : List Command), s.pending = c :: rest →
    s.commandStart.pending = rest
      ∧ { s.commandStart with
            pending := s.pending, fe := s.fe, freeCount := s.freeCount } = s
      ∧ ∀ i, decode c = .ok i → step s = exec i s.commandStart

/-- With no command issued the block does not move (00_scope rule R6). -/
def Obligations.StepWithoutCommandStays : Prop :=
  ∀ s : State, s.pending = [] → step s = .next s

/-- An unknown `op` is answered with `ERR_INVAL` at every board state, and does nothing: the word has
left the port, and nothing else has changed but the response, the front end's registers, which the
front end may rewrite between two commands, and the counter of free values (30_encoding rule R83 a; the
model's reading of R62, log 8). -/
def Obligations.UnknownOpcodeAnswersInvalid : Prop :=
  ∀ (s : State) (c : Command) (rest : List Command), s.pending = c :: rest → c.op ∉ opcodes →
    step s = .next (s.commandStart.fail .inval)
      ∧ (s.commandStart.fail .inval).pending = rest
      ∧ { s.commandStart.fail .inval with
            pending := s.pending, fe := s.fe, freeCount := s.freeCount, response := s.response } = s

/-- What the front end leaves alone between two commands, once it is constructed: the force
registers, and every bit of every correction whose force bit is 1. A register that is in none of the
groups, or whose corrections are all unforced, has any value (10_state rule R31, 20_memory rule R62;
the model's reading, log 8 and log 9). That the front end leaves the force registers alone is log 11
(PRESUMED, as R62 asks a model to list): 10_state rule R28 would let it clear a force bit. -/
def Obligations.ForcedCorrectionsHoldBetweenCommands : Prop :=
  ∀ s : State, s.bstate = .initialized →
    (∀ ch, s.cfg.feHas (s.cfg.forceReg.get ch) = true →
      s.commandStart.feAt (s.cfg.forceReg.get ch) = s.feAt (s.cfg.forceReg.get ch))
    ∧ (∀ ch k b f, s.forced ch k b = true → f ∈ s.cfg.fieldsOf ch k b →
        s.cfg.feHas f.reg = true →
        s.commandStart.feAt f.reg &&& f.bits = s.feAt f.reg &&& f.bits)
    ∧ (∀ a : RegAddr, s.cfg.feHas a = true → s.cfg.isForceReg a.toNat = false →
        (∀ f ∈ s.cfg.fieldsAt a.toNat, s.forced f.ch f.kind f.band = false) →
        s.commandStart.feAt a = Config.freeByte s.freeCount a.toNat)

/-- Every command produces one response: success, or one error code with `RESULT` 0; and `RESULT` is
0 for a command without a result (30_encoding rule R86). That a step answers at all rests on log 19
(PRESUMED): every primitive returns, with success or a status. -/
def Obligations.EveryCommandAnswers : Prop :=
  ∀ (s : State) (c : Command) (rest : List Command), s.cfg.legal = true → s.pending = c :: rest →
    ∃ t r, step s = .next t ∧ t.response = some r ∧ t.pending = rest
      ∧ (r.status = 0 ∨ ∃ e, r = ⟨s.cfg.errCode e, 0⟩)
      ∧ ((∀ i, decode c = .ok i → i.returnsResult = false) → r.result = 0)

/-! ## Invariants and whole-machine rules -/

/-- Every step keeps the invariant: a legal configuration, front-end registers in canonical form and
inside the `FE` space, an RFFE register of `RFFE_BITS` bits (00_scope rule R9, 10_state rules R24 and
R26). -/
def Obligations.StepKeepsInvariant : Prop :=
  ∀ s t : State, s.Inv → step s = .next t → t.Inv

/-- The invariant holds at reset. -/
def Obligations.InvariantAtReset : Prop :=
  State.reset.Inv

/-- No command writes the configuration (00_scope rule R8, 20_memory rule R65). -/
def Obligations.StepKeepsConfiguration : Prop :=
  ∀ s t : State, step s = .next t → t.cfg = s.cfg

/-- Open and `CLOSE` leave the board uninitialized with no stream handle (10_state rule R33). -/
def Obligations.ResetEventsClearBoard : Prop :=
  (State.reset.bstate = .uninitialized ∧ State.reset.syncHandle = ⟨false, false⟩)
    ∧ ∀ s, ∃ t, exec .close s = .next t ∧ t.bstate = .uninitialized
        ∧ t.syncHandle = ⟨false, false⟩

/-- The board state moves forward only, but for `CLOSE`, and only the bring-up commands move it
(10_state rule R23, 60_exceptions rule R250). -/
def Obligations.BoardStateMovesForward : Prop :=
  ∀ (i : Instr) (s t : State), exec i s = .next t →
    (i ≠ .close → s.bstate.code ≤ t.bstate.code)
    ∧ (i ≠ .fwDetected → i ≠ .fpgaLoaded → i ≠ .init → i ≠ .close → t.bstate = s.bstate)

/-- Which commands can change which field of `S` (10_state rule R20 with 40_bringup rules R111 and
R116 and 44_lowlevel rule R224). -/
def Obligations.FieldsChangedOnlyByTheirCommands : Prop :=
  ∀ (i : Instr) (s t : State), exec i s = .next t → i ≠ .close →
    (i ≠ .init → i ≠ .fpgaLoaded → (∀ ch f, i ≠ .selectBand ch f) →
        (∀ ch f, i ≠ .setFrequency ch f) → (∀ ch, i ≠ .enableModule ch) →
        (∀ ch, i ≠ .disableModule ch) → t.rffe = s.rffe)
    ∧ (i ≠ .init → (∀ ch k v, i ≠ .setCorrection ch k v) → (∀ a v, i ≠ .regWrite a v) →
        t.fe = s.fe)
    ∧ (i ≠ .init → (∀ ch f, i ≠ .selectBand ch f) → (∀ ch f, i ≠ .setFrequency ch f) →
        (∀ ch p, i ≠ .setRfPort ch p) → (∀ ch, i ≠ .enableModule ch) →
        (∀ a v, i ≠ .regWrite a v) → t.port = s.port)
    ∧ (i ≠ .init → (∀ ch f, i ≠ .setFrequency ch f) → (∀ a v, i ≠ .regWrite a v) →
        t.loFreq = s.loFreq)
    ∧ (i ≠ .fpgaLoaded → (∀ ch, i ≠ .enableModule ch) → (∀ ch, i ≠ .disableModule ch) →
        t.modEn = s.modEn)
    ∧ ((∀ ch, i ≠ .syncConfig ch) → (∀ ch, i ≠ .disableModule ch) →
        t.syncHandle = s.syncHandle)

/-- A successful command on a channel leaves the other direction alone: its port, frequency, module
bit, stream handle, enable bit and antenna field (10_state rule R24, 41_band_port rule R135,
43_module_enable rule R200). -/
def Obligations.OtherDirectionUntouched : Prop :=
  ∀ (i : Instr) (c : Chan) (d : Dir) (s t : State), s.cfg.legal = true → i.chan? = some c →
    d ≠ c.dir → exec i s = .next t → t.succeeded →
    t.port.get d = s.port.get d ∧ t.loFreq.get d = s.loFreq.get d
      ∧ t.modEn.get d = s.modEn.get d ∧ t.syncHandle.get d = s.syncHandle.get d
      ∧ t.enabled d = s.enabled d ∧ t.antenna d = s.antenna d

/-- After a successful `SELECT_BAND`, `SET_FREQUENCY`, `ENABLE_MODULE` or `DISABLE_MODULE` on a
direction, a disabled direction has the Shutdown antenna code (10_state rule R25). -/
def Obligations.DisabledDirectionHasShutdownCode : Prop :=
  ∀ (i : Instr) (ch : BitVec 8) (c : Chan) (s t : State), s.cfg.legal = true →
    Chan.ofCode ch = some c →
    ((∃ f, i = .selectBand ch f) ∨ (∃ f, i = .setFrequency ch f) ∨ i = .enableModule ch
      ∨ i = .disableModule ch) →
    exec i s = .next t → t.succeeded → t.shutWhenDisabled c.dir

/-- Both directions keep it through every successful step that is not `FPGA_LOADED` or `CLOSE`
(10_state rule R25, "Invariant the commands keep"). Over the whole step it rests on log 11 (PRESUMED,
as 20_memory rule R62 asks a model to list): between two commands nobody but the block writes
`rffe`. -/
def Obligations.StepKeepsShutdownOfDisabled : Prop :=
  ∀ (s t : State) (c : Command) (rest : List Command), s.cfg.legal = true →
    s.pending = c :: rest → decode c ≠ .ok .fpgaLoaded → decode c ≠ .ok .close →
    (∀ d, s.shutWhenDisabled d) → step s = .next t → t.succeeded → ∀ d, t.shutWhenDisabled d

/-- Below its minimum state a command answers `ERR_NOT_INIT` and does nothing; past the gate, an
illegal channel or kind answers `ERR_INVAL` and does nothing (60_exceptions rules R245, R250,
R251). -/
def Obligations.GateThenOperandCheck : Prop :=
  ∀ (i : Instr) (s : State),
    (s.bstate.code < (s.cfg.minState i).code → exec i s = .next (s.fail .notInit))
    ∧ ((s.cfg.minState i).code ≤ s.bstate.code → i.wellFormed = false →
        exec i s = .next (s.fail .inval))

/-- The operand checks of `SET_FREQUENCY`, `SET_RF_PORT`, `REG_READ` and `REG_WRITE`: a refused
operand changes nothing (41_band_port rules R138 and R140, 44_lowlevel rule R222, 60_exceptions rule
R246). -/
def Obligations.RefusedOperandsChangeNothing : Prop :=
  ∀ s : State,
    (∀ ch c f, s.bstate = .initialized → Chan.ofCode ch = some c →
      (s.cfg.freqRange.get c.dir).contains (f.toNat : Int) = false →
      exec (.setFrequency ch f) s = .next (s.fail .range))
    ∧ (∀ ch c p, s.bstate = .initialized → Chan.ofCode ch = some c →
        s.cfg.portValid c.dir p = false → exec (.setRfPort ch p) s = .next (s.fail .inval))
    ∧ (∀ a v, s.cfg.regMinState.code ≤ s.bstate.code → 2 ^ s.cfg.feAddrBits ≤ a.toNat →
        exec (.regRead a) s = .next (s.fail .inval)
          ∧ exec (.regWrite a v) s = .next (s.fail .inval))

/-- An active port without a band makes the codec answer `ERR_UNSUPPORTED`; one outside the table makes
`GET_RF_PORT` answer `ERR_UNEXPECTED`; both after one call that changes nothing (41_band_port rule
R141, 42_calibration rule R161). -/
def Obligations.UnknownPortAnswers : Prop :=
  ∀ (s : State) (ch : BitVec 8) (c : Chan), s.bstate = .initialized → Chan.ofCode ch = some c →
    s.nextCallsSucceed 1 →
    (∀ kd k v, Kind.ofCode kd = some k → s.cfg.corrBandOfPort c.dir (s.port.get c.dir) = none →
      exec (.getCorrection ch kd) s
          = .next ((s.after [.phyGetPort c.dir]).fail .unsupported)
        ∧ exec (.setCorrection ch kd v) s
          = .next ((s.after [.phyGetPort c.dir]).fail .unsupported))
    ∧ (s.cfg.portValid c.dir (s.port.get c.dir) = false →
        exec (.getRfPort ch) s = .next ((s.after [.phyGetPort c.dir]).fail .unexpected))

/-! ## What each command does -/

/-- `FW_DETECTED` moves `Uninitialized` to `FirmwareLoaded` and changes nothing else (40_bringup rule
R110). -/
def Obligations.FwDetectedResult : Prop :=
  ∀ s : State,
    exec .fwDetected s = .next ((s.withBstate
      (if s.bstate = .uninitialized then .firmwareLoaded else s.bstate)).respond 0 0)

/-- `FPGA_LOADED` moves `FirmwareLoaded` to `FpgaLoaded`; `rffe` and `mod_en` are any value, nothing
else changes (40_bringup rule R111). -/
def Obligations.FpgaLoadedResult : Prop :=
  ∀ s : State, s.bstate ≠ .uninitialized →
    ∃ t, exec .fpgaLoaded s = .next t
      ∧ t.bstate = (if s.bstate = .firmwareLoaded then .fpgaLoaded else s.bstate)
      ∧ t.response = some ⟨0, 0⟩
      ∧ { t with
            bstate := s.bstate, response := s.response, rffe := s.rffe, modEn := s.modEn
            freeCount := s.freeCount } = s

/-- The end state of a successful `INIT`, its calls in order, and what it leaves (40_bringup rule
R114). The front-end registers are any value (log 7). -/
def Obligations.InitResult : Prop :=
  ∀ s : State, s.cfg.legal = true → BoardState.fpgaLoaded.code ≤ s.bstate.code →
    s.nextCallsSucceed 9 →
    ∃ t, exec .init s = .next t
      ∧ t.bstate = .initialized
      ∧ t.rffe = s.cfg.withAntenna .tx .shutdown (s.cfg.withAntenna .rx .shutdown s.cfg.rffeInit)
      ∧ (∀ d, t.enabled d = false ∧ t.antenna d = s.cfg.antCodeOf d .shutdown)
      ∧ t.port = ⟨0, 0⟩ ∧ t.loFreq = s.cfg.loDefault ∧ t.response = some ⟨0, 0⟩
      ∧ (∀ a, a < 2 ^ s.cfg.feAddrBits → feGet t.fe a = Config.freeByte s.freeCount a)
      ∧ { t with
            bstate := s.bstate, rffe := s.rffe, port := s.port, loFreq := s.loFreq, fe := s.fe
            response := s.response, freeCount := s.freeCount }
          = s.after [.rffeWrite s.cfg.rffeInit,
              .phyGetLo .rx, .rffeRead, .phySetPort .rx 0,
              .rffeWrite (s.cfg.withAntenna .rx .shutdown s.cfg.rffeInit),
              .phyGetLo .tx, .rffeRead, .phySetPort .tx 0,
              .rffeWrite (s.cfg.withAntenna .tx .shutdown
                (s.cfg.withAntenna .rx .shutdown s.cfg.rffeInit))]

/-- A failing `INIT` leaves the board state where it was (40_bringup rule R115). -/
def Obligations.FailedInitKeepsBoardState : Prop :=
  ∀ s t : State, exec .init s = .next t → ¬ t.succeeded → t.bstate = s.bstate

/-- `CLOSE` resets the board state and the stream handles; the fields the collaborators hold are any
value; nothing else changes (40_bringup rule R116). -/
def Obligations.CloseResult : Prop :=
  ∀ s : State, ∃ t, exec .close s = .next t
    ∧ t.bstate = .uninitialized ∧ t.syncHandle = ⟨false, false⟩ ∧ t.response = some ⟨0, 0⟩
    ∧ { t with
          bstate := s.bstate, syncHandle := s.syncHandle, response := s.response
          rffe := s.rffe, fe := s.fe, port := s.port, loFreq := s.loFreq, modEn := s.modEn
          freeCount := s.freeCount } = s

/-- `SELECT_BAND` (41_band_port rules R135 and R136): the port and the antenna field become those of
the band of the frequency, of `Shutdown` when the direction is disabled; nothing else changes. -/
def Obligations.SelectBandResult : Prop :=
  ∀ (s : State) (ch : BitVec 8) (c : Chan) (f : Freq), BoardState.fpgaLoaded.code ≤ s.bstate.code →
    Chan.ofCode ch = some c → s.nextCallsSucceed 3 →
    let b := if s.enabled c.dir then s.cfg.bandOf c.dir f else .shutdown
    let r := s.cfg.withAntenna c.dir b s.rffe
    exec (.selectBand ch f) s = .next
      ((((s.after [.rffeRead, .phySetPort c.dir (s.cfg.portOf c.dir b), .rffeWrite r]).withPort c.dir
        (s.cfg.portOf c.dir b)).withRffe r).respond 0 0)

/-- `SET_FREQUENCY` (41_band_port rule R138): the frequency is set and band selection re-run with
it. -/
def Obligations.SetFrequencyResult : Prop :=
  ∀ (s : State) (ch : BitVec 8) (c : Chan) (f : Freq), s.bstate = .initialized →
    Chan.ofCode ch = some c → (s.cfg.freqRange.get c.dir).contains (f.toNat : Int) = true →
    s.nextCallsSucceed 4 →
    let b := if s.enabled c.dir then s.cfg.bandOf c.dir f else .shutdown
    let r := s.cfg.withAntenna c.dir b s.rffe
    exec (.setFrequency ch f) s = .next
      (((((s.after [.phySetLo c.dir f, .rffeRead, .phySetPort c.dir (s.cfg.portOf c.dir b),
        .rffeWrite r]).withLo c.dir f).withPort c.dir (s.cfg.portOf c.dir b)).withRffe r).respond 0 0)

/-- `SET_RF_PORT` (41_band_port rule R140): the port and nothing else. -/
def Obligations.SetRfPortResult : Prop :=
  ∀ (s : State) (ch : BitVec 8) (c : Chan) (p : PortId), s.bstate = .initialized →
    Chan.ofCode ch = some c → s.cfg.portValid c.dir p = true → s.nextCallsSucceed 1 →
    exec (.setRfPort ch p) s = .next
      (((s.after [.phySetPort c.dir p]).withPort c.dir p).respond 0 0)

/-- `GET_RF_PORT` (41_band_port rule R141): the active port, zero-extended; no state changes. -/
def Obligations.GetRfPortResult : Prop :=
  ∀ (s : State) (ch : BitVec 8) (c : Chan), s.bstate = .initialized → Chan.ofCode ch = some c →
    s.cfg.portValid c.dir (s.port.get c.dir) = true → s.nextCallsSucceed 1 →
    exec (.getRfPort ch) s = .next
      ((s.after [.phyGetPort c.dir]).respond 0 (BitVec.ofNat 64 (s.port.get c.dir).toNat))

/-- `GET_CORRECTION` of scheme S (42_calibration rules R164 and R178): the byte of the register of the
active band, as a signed number times `2^s`; no state changes. -/
def Obligations.GetCorrectionSingleResult : Prop :=
  ∀ (s : State) (ch kd : BitVec 8) (c : Chan) (k : Kind) (b : CorrBand) (e : SingleEntry),
    s.cfg.legal = true → s.bstate = .initialized → Chan.ofCode ch = some c →
    Kind.ofCode kd = some k → s.cfg.slot c k = .single e →
    s.cfg.corrBandOfPort c.dir (s.port.get c.dir) = some b → s.nextCallsSucceed 2 →
    exec (.getCorrection ch kd) s = .next
      ((s.after [.phyGetPort c.dir, .spiRead (e.reg.get b)]).respond 0
        (BitVec.ofInt 64 ((s.feAt (e.reg.get b)).toInt * 2 ^ e.shift)))

/-- `GET_CORRECTION` of scheme P (42_calibration rules R170, R171, R178): the ten bits of the two
fields, top then bottom, as a signed number times 8; no state changes. -/
def Obligations.GetCorrectionPairResult : Prop :=
  ∀ (s : State) (ch kd : BitVec 8) (c : Chan) (k : Kind) (b : CorrBand) (e : PairEntry),
    s.cfg.legal = true → s.bstate = .initialized → Chan.ofCode ch = some c →
    Kind.ofCode kd = some k → s.cfg.slot c k = .pair e →
    s.cfg.corrBandOfPort c.dir (s.port.get c.dir) = some b → s.nextCallsSucceed 3 →
    exec (.getCorrection ch kd) s = .next
      ((s.after [.phyGetPort c.dir, .spiRead (e.reg.get b).top, .spiRead (e.reg.get b).bot]).respond 0
        (BitVec.ofInt 64
          ((unpack e.layout (s.feAt (e.reg.get b).top) (s.feAt (e.reg.get b).bot)).toInt * 8)))

/-- `SET_CORRECTION` of scheme S (42_calibration rules R165, R176, R179): the register of the active
band holds the encoded value, the force register its old byte with the force bit set, every other
register and all other state are as before. That no correction register is a force register is log
26. -/
def Obligations.SetCorrectionSingleResult : Prop :=
  ∀ (s : State) (ch kd : BitVec 8) (v : BitVec 16) (c : Chan) (k : Kind) (b : CorrBand)
    (e : SingleEntry),
    s.Inv → s.bstate = .initialized → Chan.ofCode ch = some c →
    Kind.ofCode kd = some k → s.cfg.slot c k = .single e → s.cfg.slotApart c k b = true →
    s.cfg.corrBandOfPort c.dir (s.port.get c.dir) = some b → s.nextCallsSucceed 4 →
    let x := BitVec.ofInt 8 (v.toInt / 2 ^ e.shift)
    let y := s.feAt (s.cfg.forceReg.get c) ||| ((1 : Byte) <<< s.cfg.forceBitOf c k b)
    ∃ t, exec (.setCorrection ch kd v) s = .next t
      ∧ t.response = some ⟨0, 0⟩
      ∧ (∀ a, feGet t.fe a =
          if a = (s.cfg.forceReg.get c).toNat then y
          else if a = (e.reg.get b).toNat then x
          else feGet s.fe a)
      ∧ { t with fe := s.fe, response := s.response }
          = s.after [.phyGetPort c.dir, .spiWrite (e.reg.get b) x, .spiRead (s.cfg.forceReg.get c),
              .spiWrite (s.cfg.forceReg.get c) y]

/-- `SET_CORRECTION` of scheme P (42_calibration rules R171, R172, R176, R179): both registers read,
both written with their fields replaced, top first, then the force bit; every other register and all
other state are as before. That no register is in two of the three roles is log 26. -/
def Obligations.SetCorrectionPairResult : Prop :=
  ∀ (s : State) (ch kd : BitVec 8) (v : BitVec 16) (c : Chan) (k : Kind) (b : CorrBand)
    (e : PairEntry),
    s.Inv → s.bstate = .initialized → Chan.ofCode ch = some c →
    Kind.ofCode kd = some k → s.cfg.slot c k = .pair e → s.cfg.slotApart c k b = true →
    s.cfg.corrBandOfPort c.dir (s.port.get c.dir) = some b → s.nextCallsSucceed 7 →
    let p := BitVec.ofInt 10 (v.toInt / 8)
    let x := packTop e.layout (s.feAt (e.reg.get b).top) p
    let z := packBot e.layout (s.feAt (e.reg.get b).bot) p
    let y := s.feAt (s.cfg.forceReg.get c) ||| ((1 : Byte) <<< s.cfg.forceBitOf c k b)
    ∃ t, exec (.setCorrection ch kd v) s = .next t
      ∧ t.response = some ⟨0, 0⟩
      ∧ (∀ a, feGet t.fe a =
          if a = (s.cfg.forceReg.get c).toNat then y
          else if a = (e.reg.get b).top.toNat then x
          else if a = (e.reg.get b).bot.toNat then z
          else feGet s.fe a)
      ∧ { t with fe := s.fe, response := s.response }
          = s.after [.phyGetPort c.dir, .spiRead (e.reg.get b).top, .spiRead (e.reg.get b).bot,
              .spiWrite (e.reg.get b).top x, .spiWrite (e.reg.get b).bot z,
              .spiRead (s.cfg.forceReg.get c), .spiWrite (s.cfg.forceReg.get c) y]

/-- `ENABLE_MODULE` (43_module_enable rules R201 and R202): the band is that of the current frequency
whatever the enable bit was; port, enable bit with antenna field in one write, module bit. -/
def Obligations.EnableModuleResult : Prop :=
  ∀ (s : State) (ch : BitVec 8) (c : Chan), s.bstate = .initialized → Chan.ofCode ch = some c →
    s.nextCallsSucceed 5 →
    let b := s.cfg.bandOf c.dir (s.loFreq.get c.dir)
    let r := s.cfg.withAntenna c.dir b (s.cfg.withEnable c.dir true s.rffe)
    exec (.enableModule ch) s = .next
      (((((s.after [.phyGetLo c.dir, .phySetPort c.dir (s.cfg.portOf c.dir b), .rffeRead,
        .rffeWrite r, .backendEnable c.dir true]).withPort c.dir (s.cfg.portOf c.dir b)).withRffe
        r).withModEn c.dir true).respond 0 0)

/-- `DISABLE_MODULE` (43_module_enable rules R201, R203, R204): the stream handle first, then enable
bit and antenna field in one write, then the module bit; the port is left alone. -/
def Obligations.DisableModuleResult : Prop :=
  ∀ (s : State) (ch : BitVec 8) (c : Chan), s.bstate = .initialized → Chan.ofCode ch = some c →
    s.nextCallsSucceed 3 →
    let r := s.cfg.withAntenna c.dir .shutdown (s.cfg.withEnable c.dir false s.rffe)
    exec (.disableModule ch) s = .next
      ((((((s.logged (.streamTeardown c.dir)).after
        [.rffeRead, .rffeWrite r, .backendEnable c.dir false]).withHandle c.dir false).withRffe
        r).withModEn c.dir false).respond 0 0)

/-- `SYNC_CONFIG` (43_module_enable rule R205): the stream handle and nothing else. -/
def Obligations.SyncConfigResult : Prop :=
  ∀ (s : State) (ch : BitVec 8) (c : Chan), s.bstate = .initialized → Chan.ofCode ch = some c →
    exec (.syncConfig ch) s = .next ((s.withHandle c.dir true).respond 0 0)

/-- `REG_READ` (44_lowlevel rule R223): the byte of the register, zero-extended; no state changes. -/
def Obligations.RegReadResult : Prop :=
  ∀ (s : State) (a : RegAddr), s.cfg.regMinState.code ≤ s.bstate.code →
    a.toNat < 2 ^ s.cfg.feAddrBits → s.nextCallsSucceed 1 →
    exec (.regRead a) s = .next
      ((s.after [.spiRead a]).respond 0 (BitVec.ofNat 64 (feGet s.fe a.toNat).toNat))

/-- `REG_WRITE` to a register of the block's tables stores the byte and nothing else happens
(44_lowlevel rule R224). -/
def Obligations.RegWriteKnownResult : Prop :=
  ∀ (s : State) (a : RegAddr) (v : Byte), s.Inv → s.cfg.regMinState.code ≤ s.bstate.code →
    a.toNat < 2 ^ s.cfg.feAddrBits → s.cfg.knownReg a.toNat = true → s.nextCallsSucceed 1 →
    ∃ t, exec (.regWrite a v) s = .next t
      ∧ t.response = some ⟨0, 0⟩
      ∧ (∀ n, feGet t.fe n = if n = a.toNat then v else feGet s.fe n)
      ∧ { t with fe := s.fe, response := s.response } = s.after [.spiWrite a v]

/-- `REG_WRITE` to an opaque register makes both ports, both frequencies, every opaque register and
every unforced correction register any value, and changes nothing else: a force register stays, and so
does a correction register whose corrections are all forced, while a register that a forced and an
unforced correction share is any value, whole (44_lowlevel rule R224, 93 U4 and U6; the model's
reading, log 12). -/
def Obligations.RegWriteOpaqueResult : Prop :=
  ∀ (s : State) (a : RegAddr) (v : Byte), s.cfg.regMinState.code ≤ s.bstate.code →
    a.toNat < 2 ^ s.cfg.feAddrBits → s.cfg.knownReg a.toNat = false → s.nextCallsSucceed 1 →
    ∃ t, exec (.regWrite a v) s = .next t
      ∧ t.response = some ⟨0, 0⟩
      ∧ (∀ ch, s.cfg.feHas (s.cfg.forceReg.get ch) = true →
          t.feAt (s.cfg.forceReg.get ch) = s.feAt (s.cfg.forceReg.get ch))
      ∧ (∀ r : RegAddr, s.cfg.feHas r = true → s.cfg.fieldsAt r.toNat ≠ [] →
          (∀ f ∈ s.cfg.fieldsAt r.toNat, s.forced f.ch f.kind f.band = true) →
          t.feAt r = s.feAt r)
      ∧ (∀ r : RegAddr, s.cfg.feHas r = true → s.cfg.isForceReg r.toNat = false →
          (s.cfg.fieldsAt r.toNat = []
            ∨ ∃ f ∈ s.cfg.fieldsAt r.toNat, s.forced f.ch f.kind f.band = false) →
          t.feAt r = Config.freeByte s.freeCount r.toNat)
      ∧ { t with
            fe := s.fe, port := s.port, loFreq := s.loFreq, freeCount := s.freeCount
            response := s.response } = s.after [.spiWrite a v]

/-! ## Failures in the middle of a command -/

/-- Where `SET_FREQUENCY` can fail and what it leaves: the frequency may already be changed, nothing is
rolled back, and the one target of the failed call is any value (41_band_port rule R139). -/
def Obligations.SetFrequencyFailureWindow : Prop :=
  ∀ (s : State) (ch : BitVec 8) (c : Chan) (f : Freq) (q : Int), s.bstate = .initialized →
    Chan.ofCode ch = some c → (s.cfg.freqRange.get c.dir).contains (f.toNat : Int) = true → q < 0 →
    let b := if s.enabled c.dir then s.cfg.bandOf c.dir f else .shutdown
    let p := s.cfg.portOf c.dir b
    let r := s.cfg.withAntenna c.dir b s.rffe
    (s.replies[0]? = some q →
      ∃ g, exec (.setFrequency ch f) s = .next
        (((s.after [.phySetLo c.dir f]).withLo c.dir g).usedFree.fail (s.cfg.translate q)))
    ∧ (s.nextCallsSucceed 1 → s.replies[1]? = some q →
      exec (.setFrequency ch f) s = .next
        (((s.after [.phySetLo c.dir f, .rffeRead]).withLo c.dir f).fail (s.cfg.translate q)))
    ∧ (s.nextCallsSucceed 2 → s.replies[2]? = some q →
      ∃ g, exec (.setFrequency ch f) s = .next
        ((((s.after [.phySetLo c.dir f, .rffeRead, .phySetPort c.dir p]).withLo c.dir f).withPort
          c.dir g).usedFree.fail (s.cfg.translate q)))
    ∧ (s.nextCallsSucceed 3 → s.replies[3]? = some q →
      ∃ g, exec (.setFrequency ch f) s = .next
        (((((s.after [.phySetLo c.dir f, .rffeRead, .phySetPort c.dir p, .rffeWrite r]).withLo c.dir
          f).withPort c.dir p).withRffe g).usedFree.fail (s.cfg.translate q)))

/-- Where `SELECT_BAND` can fail and what it leaves: nothing changed after the register read, any port
after the port push, the new port and any `rffe` after the register write (41_band_port rules R135 and
R137, 60_exceptions rule R246). -/
def Obligations.SelectBandFailureWindow : Prop :=
  ∀ (s : State) (ch : BitVec 8) (c : Chan) (f : Freq) (q : Int),
    BoardState.fpgaLoaded.code ≤ s.bstate.code → Chan.ofCode ch = some c → q < 0 →
    let b := if s.enabled c.dir then s.cfg.bandOf c.dir f else .shutdown
    let p := s.cfg.portOf c.dir b
    let r := s.cfg.withAntenna c.dir b s.rffe
    (s.replies[0]? = some q →
      exec (.selectBand ch f) s = .next ((s.after [.rffeRead]).fail (s.cfg.translate q)))
    ∧ (s.nextCallsSucceed 1 → s.replies[1]? = some q →
      ∃ g, exec (.selectBand ch f) s = .next
        (((s.after [.rffeRead, .phySetPort c.dir p]).withPort c.dir g).usedFree.fail
          (s.cfg.translate q)))
    ∧ (s.nextCallsSucceed 2 → s.replies[2]? = some q →
      ∃ g, g < 2 ^ s.cfg.rffeBits ∧ exec (.selectBand ch f) s = .next
        ((((s.after [.rffeRead, .phySetPort c.dir p, .rffeWrite r]).withPort c.dir p).withRffe
          g).usedFree.fail (s.cfg.translate q)))

/-- Where `ENABLE_MODULE` can fail and what it leaves: every step before the failing call stays, the
one target of the failed call is any value, and no later step runs (43_module_enable rule R202,
60_exceptions rule R246). -/
def Obligations.EnableModuleFailureWindow : Prop :=
  ∀ (s : State) (ch : BitVec 8) (c : Chan) (q : Int), s.bstate = .initialized →
    Chan.ofCode ch = some c → q < 0 →
    let b := s.cfg.bandOf c.dir (s.loFreq.get c.dir)
    let p := s.cfg.portOf c.dir b
    let r := s.cfg.withAntenna c.dir b (s.cfg.withEnable c.dir true s.rffe)
    (s.replies[0]? = some q →
      exec (.enableModule ch) s = .next ((s.after [.phyGetLo c.dir]).fail (s.cfg.translate q)))
    ∧ (s.nextCallsSucceed 1 → s.replies[1]? = some q →
      ∃ g, exec (.enableModule ch) s = .next
        (((s.after [.phyGetLo c.dir, .phySetPort c.dir p]).withPort c.dir g).usedFree.fail
          (s.cfg.translate q)))
    ∧ (s.nextCallsSucceed 2 → s.replies[2]? = some q →
      exec (.enableModule ch) s = .next
        (((s.after [.phyGetLo c.dir, .phySetPort c.dir p, .rffeRead]).withPort c.dir p).fail
          (s.cfg.translate q)))
    ∧ (s.nextCallsSucceed 3 → s.replies[3]? = some q →
      ∃ g, g < 2 ^ s.cfg.rffeBits ∧ exec (.enableModule ch) s = .next
        ((((s.after [.phyGetLo c.dir, .phySetPort c.dir p, .rffeRead, .rffeWrite r]).withPort c.dir
          p).withRffe g).usedFree.fail (s.cfg.translate q)))
    ∧ (s.nextCallsSucceed 4 → s.replies[4]? = some q →
      ∃ g, exec (.enableModule ch) s = .next
        (((((s.after [.phyGetLo c.dir, .phySetPort c.dir p, .rffeRead, .rffeWrite r,
          .backendEnable c.dir true]).withPort c.dir p).withRffe r).withModEn c.dir
          g).usedFree.fail (s.cfg.translate q)))

/-- Where `DISABLE_MODULE` can fail and what it leaves: the stream handle is destroyed already, the
steps before the failing call stay, the one target of the failed call is any value (43_module_enable
rules R203 and R204, 60_exceptions rule R246). -/
def Obligations.DisableModuleFailureWindow : Prop :=
  ∀ (s : State) (ch : BitVec 8) (c : Chan) (q : Int), s.bstate = .initialized →
    Chan.ofCode ch = some c → q < 0 →
    let u := (s.logged (.streamTeardown c.dir)).withHandle c.dir false
    let r := s.cfg.withAntenna c.dir .shutdown (s.cfg.withEnable c.dir false s.rffe)
    (s.replies[0]? = some q →
      exec (.disableModule ch) s = .next ((u.after [.rffeRead]).fail (s.cfg.translate q)))
    ∧ (s.nextCallsSucceed 1 → s.replies[1]? = some q →
      ∃ g, g < 2 ^ s.cfg.rffeBits ∧ exec (.disableModule ch) s = .next
        (((u.after [.rffeRead, .rffeWrite r]).withRffe g).usedFree.fail (s.cfg.translate q)))
    ∧ (s.nextCallsSucceed 2 → s.replies[2]? = some q →
      ∃ g, exec (.disableModule ch) s = .next
        ((((u.after [.rffeRead, .rffeWrite r, .backendEnable c.dir false]).withRffe r).withModEn
          c.dir g).usedFree.fail (s.cfg.translate q)))

/-- Where `INIT` can fail and what it leaves, by the number `k` of calls that succeed first: the front
end is constructed once the first register write is done, every selection done stays done, the target
of a failed write is any value, and the board state is as it was (40_bringup rules R114 and R115,
60_exceptions rule R246). -/
def Obligations.InitFailureWindow : Prop :=
  ∀ (s : State) (k : Nat) (q : Int), s.cfg.legal = true →
    BoardState.fpgaLoaded.code ≤ s.bstate.code → k < 9 → s.nextCallsSucceed k →
    s.replies[k]? = some q → q < 0 →
    let r := s.cfg.withAntenna .rx .shutdown s.cfg.rffeInit
    ∃ t, exec .init s = .next t
      ∧ t.response = some ⟨s.cfg.errCode (s.cfg.translate q), 0⟩
      ∧ (k = 0 → t.fe = s.fe ∧ t.port = s.port ∧ t.loFreq = s.loFreq)
      ∧ (0 < k → t.loFreq = s.cfg.loDefault
          ∧ ∀ a, a < 2 ^ s.cfg.feAddrBits → feGet t.fe a = Config.freeByte s.freeCount a)
      ∧ t.rffe < 2 ^ s.cfg.rffeBits
      ∧ (1 ≤ k → k ≤ 3 → t.rffe = s.cfg.rffeInit) ∧ (5 ≤ k → k ≤ 7 → t.rffe = r)
      ∧ (4 ≤ k → t.port.get .rx = 0) ∧ (8 ≤ k → t.port.get .tx = 0)
      ∧ { t with
            rffe := s.rffe, port := s.port, loFreq := s.loFreq, fe := s.fe
            response := s.response, freeCount := s.freeCount }
          = s.after ([.rffeWrite s.cfg.rffeInit,
              .phyGetLo .rx, .rffeRead, .phySetPort .rx 0, .rffeWrite r,
              .phyGetLo .tx, .rffeRead, .phySetPort .tx 0,
              .rffeWrite (s.cfg.withAntenna .tx .shutdown r)].take (k + 1))

/-- A `SET_CORRECTION` whose force-register read fails leaves the new value written and the force
registers as they were (42_calibration rule R180), for both schemes. The premise `slotApart` is
log 26. -/
def Obligations.SetCorrectionFailsUnforced : Prop :=
  ∀ (s : State) (ch kd : BitVec 8) (v : BitVec 16) (c : Chan) (k : Kind) (b : CorrBand) (q : Int),
    s.Inv → s.bstate = .initialized → Chan.ofCode ch = some c → Kind.ofCode kd = some k →
    s.cfg.slotApart c k b = true → s.cfg.corrBandOfPort c.dir (s.port.get c.dir) = some b → q < 0 →
    (∀ e, s.cfg.slot c k = .single e → s.nextCallsSucceed 2 → s.replies[2]? = some q →
      ∃ t, exec (.setCorrection ch kd v) s = .next t
        ∧ t.response = some ⟨s.cfg.errCode (s.cfg.translate q), 0⟩
        ∧ ∀ a, feGet t.fe a =
            if a = (e.reg.get b).toNat then BitVec.ofInt 8 (v.toInt / 2 ^ e.shift)
            else feGet s.fe a)
    ∧ (∀ e, s.cfg.slot c k = .pair e → s.nextCallsSucceed 5 → s.replies[5]? = some q →
      ∃ t, exec (.setCorrection ch kd v) s = .next t
        ∧ t.response = some ⟨s.cfg.errCode (s.cfg.translate q), 0⟩
        ∧ ∀ a, feGet t.fe a =
            if a = (e.reg.get b).top.toNat then
              packTop e.layout (s.feAt (e.reg.get b).top) (BitVec.ofInt 10 (v.toInt / 8))
            else if a = (e.reg.get b).bot.toNat then
              packBot e.layout (s.feAt (e.reg.get b).bot) (BitVec.ofInt 10 (v.toInt / 8))
            else feGet s.fe a)

/-- A `SET_CORRECTION` one of whose writes fails: the register of the failed write is any value, what
was written before it stays written, and every other register is as before; so a failed force write
leaves the new value written and any force byte, and a pair whose second write fails is left
half-written, its force register as it was (42_calibration rules R179 d and R180, 20_memory rule R56,
vector K15). The premise `slotApart` is log 26. -/
def Obligations.SetCorrectionWriteFails : Prop :=
  ∀ (s : State) (ch kd : BitVec 8) (v : BitVec 16) (c : Chan) (k : Kind) (b : CorrBand) (q : Int),
    s.Inv → s.bstate = .initialized → Chan.ofCode ch = some c → Kind.ofCode kd = some k →
    s.cfg.slotApart c k b = true → s.cfg.corrBandOfPort c.dir (s.port.get c.dir) = some b → q < 0 →
    let x := s.cfg.forceReg.get c
    let fx := s.feAt x ||| ((1 : Byte) <<< s.cfg.forceBitOf c k b)
    (∀ e, s.cfg.slot c k = .single e →
      let a := e.reg.get b
      let y := BitVec.ofInt 8 (v.toInt / 2 ^ e.shift)
      let calls : List Call := [.phyGetPort c.dir, .spiWrite a y, .spiRead x, .spiWrite x fx]
      (s.nextCallsSucceed 1 → s.replies[1]? = some q →
        ∃ t, exec (.setCorrection ch kd v) s = .next t
          ∧ t.response = some ⟨s.cfg.errCode (s.cfg.translate q), 0⟩
          ∧ (∀ n, n ≠ a.toNat → feGet t.fe n = feGet s.fe n)
          ∧ { t with fe := s.fe, freeCount := s.freeCount, response := s.response }
              = s.after (calls.take 2))
      ∧ (s.nextCallsSucceed 3 → s.replies[3]? = some q →
        ∃ t, exec (.setCorrection ch kd v) s = .next t
          ∧ t.response = some ⟨s.cfg.errCode (s.cfg.translate q), 0⟩
          ∧ (∀ n, n ≠ x.toNat → feGet t.fe n = if n = a.toNat then y else feGet s.fe n)
          ∧ { t with fe := s.fe, freeCount := s.freeCount, response := s.response }
              = s.after calls))
    ∧ (∀ e, s.cfg.slot c k = .pair e →
      let ta := (e.reg.get b).top
      let ma := (e.reg.get b).bot
      let y := BitVec.ofInt 10 (v.toInt / 8)
      let ty := packTop e.layout (s.feAt ta) y
      let my := packBot e.layout (s.feAt ma) y
      let calls : List Call := [.phyGetPort c.dir, .spiRead ta, .spiRead ma, .spiWrite ta ty,
        .spiWrite ma my, .spiRead x, .spiWrite x fx]
      (s.nextCallsSucceed 3 → s.replies[3]? = some q →
        ∃ t, exec (.setCorrection ch kd v) s = .next t
          ∧ t.response = some ⟨s.cfg.errCode (s.cfg.translate q), 0⟩
          ∧ (∀ n, n ≠ ta.toNat → feGet t.fe n = feGet s.fe n)
          ∧ { t with fe := s.fe, freeCount := s.freeCount, response := s.response }
              = s.after (calls.take 4))
      ∧ (s.nextCallsSucceed 4 → s.replies[4]? = some q →
        ∃ t, exec (.setCorrection ch kd v) s = .next t
          ∧ t.response = some ⟨s.cfg.errCode (s.cfg.translate q), 0⟩
          ∧ (∀ n, n ≠ ma.toNat → feGet t.fe n = if n = ta.toNat then ty else feGet s.fe n)
          ∧ { t with fe := s.fe, freeCount := s.freeCount, response := s.response }
              = s.after (calls.take 5))
      ∧ (s.nextCallsSucceed 6 → s.replies[6]? = some q →
        ∃ t, exec (.setCorrection ch kd v) s = .next t
          ∧ t.response = some ⟨s.cfg.errCode (s.cfg.translate q), 0⟩
          ∧ (∀ n, n ≠ x.toNat → feGet t.fe n =
              if n = ta.toNat then ty else if n = ma.toNat then my else feGet s.fe n)
          ∧ { t with fe := s.fe, freeCount := s.freeCount, response := s.response }
              = s.after calls))

/-- However `DISABLE_MODULE` ends, the stream handle is destroyed, and destroyed before the register is
read or written and before the backend is told (43_module_enable rule R204). -/
def Obligations.TeardownPrecedesDisable : Prop :=
  ∀ (s t : State) (ch : BitVec 8) (c : Chan), s.bstate = .initialized → Chan.ofCode ch = some c →
    exec (.disableModule ch) s = .next t →
    t.syncHandle = s.syncHandle.set c.dir false
      ∧ ∃ later, t.calls = s.calls ++ .streamTeardown c.dir :: later
          ∧ later <+: [.rffeRead,
              .rffeWrite (s.cfg.withAntenna c.dir .shutdown (s.cfg.withEnable c.dir false s.rffe)),
              .backendEnable c.dir false]

/-- A collaborator's negative status becomes the error of its row in `ERR_MAP`, and `unexpected` when
no row has its magnitude (60_exceptions rule R243). That the first row counts when two have the
magnitude is the model's choice, log 6 (DEDUCED). -/
def Obligations.StatusTranslation : Prop :=
  ∀ (c : Cfg) (q : Int),
    ((∀ row ∈ c.errMap, row.code ≠ q.natAbs) → c.translate q = .unexpected)
    ∧ (∀ pre row post, c.errMap = pre ++ row :: post → row.code = q.natAbs →
        (∀ x ∈ pre, x.code ≠ q.natAbs) → c.translate q = row.err)

/-! ## Bands, fields and the codec's arithmetic -/

/-- Clamping saturates, leaves an in-range value unchanged, and is idempotent (41_band_port rule
R131). -/
def Obligations.ClampSaturatesAndIsIdempotent : Prop :=
  ∀ (r : Range) (v : Int), r.min * r.scale ≤ r.max * r.scale →
    (v < r.min * r.scale → r.clamp v = r.min * r.scale)
    ∧ (r.max * r.scale < v → r.clamp v = r.max * r.scale)
    ∧ (r.contains v = true → r.clamp v = v)
    ∧ r.contains (r.clamp v) = true
    ∧ r.clamp (r.clamp v) = r.clamp v

/-- Band selection by frequency and enable state, and running `SelectBand` twice (41_band_port rule
R142). Every legal `Cfg` has the band tables of the second clause's premise (R132). -/
def Obligations.BandSelectionProperties : Prop :=
  (∀ (c : Cfg) (d : Dir) (f : Freq), c.bandFor d false f = .shutdown)
  ∧ (∀ (c : Cfg) (d : Dir) (f : Freq), c.bandTablesStandard = true →
      (f.toNat < c.fBoundary → c.bandFor d true f = .low)
      ∧ (c.fBoundary ≤ f.toNat → f.toNat ≤ c.fBandMax → c.bandFor d true f = .high)
      ∧ (c.fBoundary ≤ f.toNat → c.fBandMax < f.toNat → c.bandFor d true f = .shutdown))
  ∧ (∀ (ch : Chan) (f : Freq) (s t u : State), s.cfg.legal = true →
      selectBand ch f s = .done () t → selectBand ch f t = .done () u →
      u.rffe = t.rffe ∧ u.port = t.port)

/-- The antenna field and the enable bit of a direction are written without touching any other bit of
the RFFE register (10_state rule R24, 41_band_port rule R135). -/
def Obligations.RffeFieldsAreWrittenAlone : Prop :=
  ∀ (c : Cfg) (d : Dir) (b : Band) (e : Bool) (r : Rffe), c.legal = true →
    c.antennaIn d (c.withAntenna d b r) = c.antCodeOf d b
    ∧ (∀ i, i < c.antLsb.get d ∨ c.antLsb.get d + c.antW ≤ i →
        (c.withAntenna d b r).testBit i = r.testBit i)
    ∧ c.enabledIn d (c.withEnable d e r) = e
    ∧ (∀ i, i ≠ c.enBit.get d → (c.withEnable d e r).testBit i = r.testBit i)
    ∧ (∀ d', c.enabledIn d' (c.withAntenna d b r) = c.enabledIn d' r
        ∧ c.antennaIn d' (c.withEnable d e r) = c.antennaIn d' r)

/-- The arithmetic of the codec: decoding is a signed number times the granularity, encoding is the
floor of a division, cut to the register's bits (42_calibration rules R164, R165, R171). -/
def Obligations.CodecArithmetic : Prop :=
  (∀ (x : Byte) (n : Nat), decode8 x n = x.toInt * 2 ^ n)
  ∧ (∀ (v : BitVec 16) (n : Nat), encode8 v n = BitVec.ofInt 8 (v.toInt / 2 ^ n))
  ∧ (∀ phys : BitVec 10, decodeRxDc phys = phys.toInt * 8)
  ∧ (∀ v : BitVec 16, encodeRxDc v = BitVec.ofInt 10 (v.toInt / 8))

/-- Round trip of scheme S (42_calibration rule R166). -/
def Obligations.SingleRegisterRoundTrip : Prop :=
  ∀ n : Nat, n = 5 ∨ n = 6 →
    (∀ v : BitVec 16, -(2 ^ (n + 7)) ≤ v.toInt → v.toInt < 2 ^ (n + 7) →
      decode8 (encode8 v n) n = 2 ^ n * (v.toInt / 2 ^ n)
        ∧ (decode8 (encode8 v n) n = v.toInt ↔ (2 : Int) ^ n ∣ v.toInt))
    ∧ (∀ x : Byte, encode8 (BitVec.ofInt 16 (decode8 x n)) n = x)

/-- Unpacking reads the two fields, packing replaces them and keeps every other bit, and unpacking what
was packed gives it back, for every layout of the fixed shape (42_calibration rules R169, R170,
R172). -/
def Obligations.PackUnpackRoundTrip : Prop :=
  ∀ (l : Layout) (t m : Byte) (phys : BitVec 10), l.legal = true →
    (∀ i, i < 10 → (unpack l t m).getLsbD i =
      if i < l.botN then m.getLsbD (l.botLo + i) else t.getLsbD (l.topLo + (i - l.botN)))
    ∧ unpack l (packTop l t phys) (packBot l m phys) = phys
    ∧ (∀ i, i < l.topLo ∨ l.topLo + l.topN ≤ i →
        (packTop l t phys).getLsbD i = t.getLsbD i)
    ∧ (∀ i, i < l.botLo ∨ l.botLo + l.botN ≤ i →
        (packBot l m phys).getLsbD i = m.getLsbD i)

/-! ## Runs of more than one command -/

/-- A correction set and then read back, over two steps and whatever the front end does between them,
comes back rounded down to the granularity, for both schemes (42_calibration rules R166 and R174; what
the front end may change is the model's reading, log 8, log 9, log 11; `slotApart` is log 26). -/
def Obligations.SetThenGetRoundsDown : Prop :=
  ∀ (s : State) (ch kd : BitVec 8) (v : BitVec 16) (c : Chan) (k : Kind) (b : CorrBand)
    (rest : List Command),
    s.Inv → s.bstate = .initialized → Chan.ofCode ch = some c → Kind.ofCode kd = some k →
    s.cfg.slotApart c k b = true → s.cfg.corrBandOfPort c.dir (s.port.get c.dir) = some b →
    -(s.cfg.slot c k).top ≤ v.toInt → v.toInt < (s.cfg.slot c k).top →
    s.pending = encode (.setCorrection ch kd v) :: encode (.getCorrection ch kd) :: rest →
    s.nextCallsSucceed 10 →
    ∃ t u, step s = .next t ∧ t.response = some ⟨0, 0⟩ ∧ step t = .next u
      ∧ u.response = some ⟨0, BitVec.ofInt 64
          ((s.cfg.slot c k).granularity * (v.toInt / (s.cfg.slot c k).granularity))⟩

/-- Force bits only accumulate: a successful `SET_CORRECTION` sets its force bit and clears no bit of any
force register (10_state rule R28, 70_reset_and_hazards rule R298; `slotApart` is log 26). -/
def Obligations.SetCorrectionClearsNoForceBit : Prop :=
  ∀ (s t : State) (ch kd : BitVec 8) (v : BitVec 16) (c : Chan) (k : Kind) (b : CorrBand),
    s.Inv → Chan.ofCode ch = some c → Kind.ofCode kd = some k →
    s.cfg.corrBandOfPort c.dir (s.port.get c.dir) = some b → s.cfg.slotApart c k b = true →
    exec (.setCorrection ch kd v) s = .next t → t.succeeded →
    t.forced c k b = true
      ∧ ∀ ch' n, (s.feAt (s.cfg.forceReg.get ch')).getLsbD n = true →
          (t.feAt (s.cfg.forceReg.get ch')).getLsbD n = true

/-- What `REG_WRITE` stores in a force register a later `REG_READ` reads, whatever the front end does
between the two commands (20_memory rules R50 and R52; that a force register holds is log 11). -/
def Obligations.ForceRegisterWriteThenRead : Prop :=
  ∀ (s : State) (ch : Chan) (v : Byte) (rest : List Command), s.Inv → s.bstate = .initialized →
    s.pending = encode (.regWrite (s.cfg.forceReg.get ch) v)
      :: encode (.regRead (s.cfg.forceReg.get ch)) :: rest →
    s.nextCallsSucceed 2 →
    ∃ t u, step s = .next t ∧ t.response = some ⟨0, 0⟩ ∧ step t = .next u
      ∧ u.response = some ⟨0, BitVec.ofNat 64 v.toNat⟩

/-- Enabling a direction twice without disabling writes the same register bits, port and module bit
(43_module_enable rule R202). -/
def Obligations.EnableTwiceIsIdempotent : Prop :=
  ∀ (s t u : State) (ch ch' : BitVec 8) (c c' : Chan), s.cfg.legal = true →
    Chan.ofCode ch = some c → Chan.ofCode ch' = some c' → c'.dir = c.dir →
    exec (.enableModule ch) s = .next t → t.succeeded →
    exec (.enableModule ch') t = .next u → u.succeeded →
    u.rffe = t.rffe ∧ u.port = t.port ∧ u.modEn = t.modEn ∧ u.enabled c.dir = true
      ∧ u.antenna c.dir = s.cfg.antCodeOf c.dir (s.cfg.bandOf c.dir (s.loFreq.get c.dir))

/-- The boot sequence `FW_DETECTED`, `FPGA_LOADED`, `INIT`, from any state with a legal configuration,
every call succeeding: each answers success and the board ends as R34's right-hand column says
(70_reset_and_hazards rule R281, 10_state rule R34). That the stream handles stay across the three
commands rests on log 11 (PRESUMED): nobody but the block and its commands writes them. -/
def Obligations.BootSequence : Prop :=
  ∀ (s : State) (rest : List Command), s.cfg.legal = true →
    s.pending = encode .fwDetected :: encode .fpgaLoaded :: encode .init :: rest →
    s.nextCallsSucceed 9 →
    ∃ t u w, step s = .next t ∧ t.response = some ⟨0, 0⟩
      ∧ step t = .next u ∧ u.response = some ⟨0, 0⟩
      ∧ step u = .next w ∧ w.response = some ⟨0, 0⟩
      ∧ w.bstate = .initialized ∧ w.pending = rest ∧ w.syncHandle = s.syncHandle
      ∧ w.rffe = s.cfg.withAntenna .tx .shutdown (s.cfg.withAntenna .rx .shutdown s.cfg.rffeInit)
      ∧ ∀ d, w.enabled d = false ∧ w.antenna d = s.cfg.antCodeOf d .shutdown
          ∧ w.port.get d = 0 ∧ w.loFreq.get d = s.cfg.loDefault.get d
end

