-- ==== Sys2Proof/Laws/Bits.lean ====
section
/-!
SUPPORT. Bit fields bit by bit.
-/

namespace Sys2Proof.Machine

theorem getLsbD_fieldMask (w lo n i : Nat) :
    (fieldMask w lo n).getLsbD i = (decide (i < w) && decide (lo ≤ i) && decide (i < lo + n)) := by
  simp only [fieldMask, BitVec.getLsbD_ofNat, Nat.testBit_shiftLeft, Nat.testBit_two_pow_sub_one,
    ge_iff_le]
  by_cases h : lo ≤ i <;> simp [h]
  congr 1
  exact decide_eq_decide.mpr (by omega)

/-- Inside the field a bit is the new one, outside it the old one. -/
theorem getLsbD_setField {w : Nat} (lo n : Nat) (v f : BitVec w) (i : Nat) :
    (setField lo n v f).getLsbD i
      = (decide (i < w) && if lo ≤ i ∧ i < lo + n then f.getLsbD (i - lo) else v.getLsbD i) := by
  simp only [setField, BitVec.getLsbD_or, BitVec.getLsbD_and, BitVec.getLsbD_not, getLsbD_fieldMask,
    BitVec.getLsbD_shiftLeft]
  by_cases hw : i < w <;> by_cases h1 : lo ≤ i <;> by_cases h2 : i < lo + n <;>
    simp [hw, h1, h2, Nat.not_lt.mpr, Nat.not_le.mp]

theorem getLsbD_getField {w : Nat} (lo n : Nat) (v : BitVec w) (i : Nat) :
    (getField lo n v).getLsbD i = (decide (i < n) && v.getLsbD (lo + i)) := by
  simp only [getField, BitVec.getLsbD_and, BitVec.getLsbD_ushiftRight, BitVec.getLsbD_ofNat,
    Nat.testBit_two_pow_sub_one]
  by_cases hn : i < n <;> simp [hn]
  intro hv
  have := BitVec.lt_of_getLsbD hv
  omega

/-- A field reads what was put into it, if it lies inside the value. -/
theorem getField_setField {w lo n : Nat} (v f : BitVec w) (h : lo + n ≤ w) :
    getField lo n (setField lo n v f) = getField 0 n f := by
  apply BitVec.eq_of_getLsbD_eq
  intro i _
  simp only [getLsbD_getField, getLsbD_setField]
  by_cases hn : i < n
  · simp [hn, show lo + i < w by omega]
  · simp [hn]

/-- A field that does not meet the one written reads as before. -/
theorem getField_setField_apart {w lo n lo' n' : Nat} (v f : BitVec w)
    (h : lo + n ≤ lo' ∨ lo' + n' ≤ lo) :
    getField lo' n' (setField lo n v f) = getField lo' n' v := by
  apply BitVec.eq_of_getLsbD_eq
  intro i _
  simp only [getLsbD_getField, getLsbD_setField]
  by_cases hn : i < n'
  · rw [if_neg (by omega)]
    by_cases hw : lo' + i < w
    · simp [hw]
    · simp [hw, BitVec.getLsbD_of_ge v (lo' + i) (by omega)]
  · simp [hn]

theorem getField_zero_of_lt {w n : Nat} (v : BitVec w) (h : v.toNat < 2 ^ n) : getField 0 n v = v := by
  apply BitVec.eq_of_getLsbD_eq
  intro i _
  rw [getLsbD_getField]
  by_cases hn : i < n
  · simp [hn]
  · simp only [hn, decide_false, Bool.false_and]
    rw [BitVec.getLsbD, Nat.testBit_lt_two_pow (h.trans_le (Nat.pow_le_pow_right (by omega) (by omega)))]

theorem getLsbD_setBit {w : Nat} (i : Nat) (v : BitVec w) (b : Bool) (j : Nat) :
    (setBit i v b).getLsbD j = (decide (j < w) && if j = i then b else v.getLsbD j) := by
  rw [setBit, getLsbD_setField]
  by_cases hj : j = i
  · subst hj
    by_cases hw : j < w
    · have : 0 < w := by omega
      cases b <;> simp [hw]; omega
    · simp [hw]
  · rw [if_neg (by omega), if_neg hj]

/-! The same for a value whose width is a parameter. -/

theorem testBit_natField (lo n v i : Nat) :
    (natField lo n v).testBit i = (decide (i < n) && v.testBit (lo + i)) := by
  simp [natField, Nat.testBit_mod_two_pow, Nat.testBit_shiftRight]

/-- Inside the field a bit is the new one, outside it the old one. -/
theorem testBit_setNatField (lo n v f i : Nat) :
    (setNatField lo n v f).testBit i
      = if lo ≤ i ∧ i < lo + n then f.testBit (i - lo) else v.testBit i := by
  simp only [setNatField, Nat.testBit_or, Nat.testBit_shiftLeft, Nat.testBit_shiftRight,
    Nat.testBit_mod_two_pow]
  by_cases h1 : lo ≤ i <;> by_cases h2 : i < lo + n
  · simp [h1, h2, show ¬ n ≤ i - lo by omega, show i - lo < n by omega, show ¬ i < lo by omega]
  · simp [h1, h2, show n ≤ i - lo by omega, show ¬ i - lo < n by omega, show ¬ i < lo by omega,
      show lo + n + (i - lo - n) = i by omega]
  · simp [h1, show i < lo by omega]
  · simp [h1, show i < lo by omega]

/-- A field reads what was put into it. -/
theorem natField_setNatField (lo n v f : Nat) :
    natField lo n (setNatField lo n v f) = f % 2 ^ n := by
  apply Nat.eq_of_testBit_eq
  intro i
  simp only [testBit_natField, testBit_setNatField, Nat.testBit_mod_two_pow]
  by_cases hn : i < n <;> simp [hn]

/-- A field that does not meet the one written reads as before. -/
theorem natField_setNatField_apart {lo n lo' n' : Nat} (v f : Nat)
    (h : lo + n ≤ lo' ∨ lo' + n' ≤ lo) : natField lo' n' (setNatField lo n v f) = natField lo' n' v := by
  apply Nat.eq_of_testBit_eq
  intro i
  simp only [testBit_natField, testBit_setNatField]
  by_cases hn : i < n'
  · rw [if_neg (by omega)]
  · simp [hn]

theorem testBit_setNatBit (i v : Nat) (b : Bool) (j : Nat) :
    (setNatBit i v b).testBit j = if j = i then b else v.testBit j := by
  rw [setNatBit, testBit_setNatField]
  by_cases hj : j = i
  · subst hj
    cases b <;> simp
  · rw [if_neg (by omega), if_neg hj]

/-- A value below a power of two has no bit from that power up. -/
theorem lt_two_pow_iff_testBit (v n : Nat) : v < 2 ^ n ↔ ∀ i, n ≤ i → v.testBit i = false :=
  ⟨fun h i hi => Nat.testBit_lt_two_pow (h.trans_le (Nat.pow_le_pow_right (by omega) hi)),
    fun h => Nat.lt_pow_two_of_testBit _ fun i hi => h i hi⟩

/-- A field written inside a value of `w` bits leaves a value of `w` bits. -/
theorem setNatField_lt {lo n v w : Nat} (f : Nat) (hv : v < 2 ^ w) (h : lo + n ≤ w) :
    setNatField lo n v f < 2 ^ w := by
  rw [lt_two_pow_iff_testBit] at hv ⊢
  intro i hi
  rw [testBit_setNatField, if_neg (by omega), hv i hi]

end Sys2Proof.Machine
end

