-- ==== Sys2Proof/Laws/Legal.lean ====
section
/-!
SUPPORT. What a legal configuration gives, one lemma per constraint that a command relies on.
-/

namespace Sys2Proof

@[simp] theorem Chan.mem_all (c : Chan) : c ∈ Chan.all := by cases c <;> decide
@[simp] theorem Kind.mem_all (k : Kind) : k ∈ Kind.all := by cases k <;> decide
@[simp] theorem CorrBand.mem_all (b : CorrBand) : b ∈ CorrBand.all := by cases b <;> decide
@[simp] theorem Err.mem_all (e : Err) : e ∈ Err.all := by cases e <;> decide

variable {c : Cfg}

theorem Cfg.legal_iff : c.legal = true ↔
    c.addrBitsLegal = true ∧ c.rffeFieldsLegal = true ∧ c.antCodesLegal = true
      ∧ c.rffeInitLegal = true ∧ c.bandsLegal = true ∧ c.freqLegal = true ∧ c.portsLegal = true
      ∧ c.corrLegal = true ∧ c.forceLegal = true ∧ c.errLegal = true := by
  simp only [Cfg.legal, Bool.and_eq_true, and_assoc]

theorem Cfg.feHas_iff {a : RegAddr} : c.feHas a = true ↔ a.toNat < 2 ^ c.feAddrBits := by
  simp [Cfg.feHas]

theorem Cfg.legal_slotLegal (h : c.legal = true) (ch : Chan) (k : Kind) :
    c.slotLegal (c.slot ch k) = true := by
  obtain ⟨-, -, -, -, -, -, -, h, -, -⟩ := Cfg.legal_iff.mp h
  simp only [Cfg.corrLegal, Bool.and_eq_true, List.all_eq_true] at h
  exact h.1 ch (Chan.mem_all ch) k (Kind.mem_all k)

theorem Cfg.legal_forceReg (h : c.legal = true) (ch : Chan) : c.feHas (c.forceReg.get ch) = true := by
  obtain ⟨-, -, -, -, -, -, -, -, h, -⟩ := Cfg.legal_iff.mp h
  simp only [Cfg.forceLegal, Bool.and_eq_true, List.all_eq_true] at h
  exact (h ch (Chan.mem_all ch)).1

theorem Cfg.legal_forceBit (h : c.legal = true) (ch : Chan) (k : Kind) (b : CorrBand) :
    c.forceBitOf ch k b < 8 := by
  obtain ⟨-, -, -, -, -, -, -, -, h, -⟩ := Cfg.legal_iff.mp h
  simp only [Cfg.forceLegal, Bool.and_eq_true, List.all_eq_true, decide_eq_true_eq] at h
  exact (h ch (Chan.mem_all ch)).2 k (Kind.mem_all k) b (CorrBand.mem_all b)

theorem Cfg.legal_errCode_ne_zero (h : c.legal = true) (e : Err) : c.errCode e ≠ 0 := by
  obtain ⟨-, -, -, -, -, -, -, -, -, h⟩ := Cfg.legal_iff.mp h
  simp only [Cfg.errLegal, Bool.and_eq_true, List.all_eq_true] at h
  intro h0
  have := h.1 e (Err.mem_all e)
  rw [h0] at this
  simp at this

/-- The fields of the RFFE register: where they lie and that they do not meet. -/
theorem Cfg.legal_rffeFields (h : c.legal = true) :
    (∀ d, c.enBit.get d < c.rffeBits)
      ∧ (∀ d, c.antLsb.get d + c.antW ≤ c.rffeBits) ∧ c.enBit.rx ≠ c.enBit.tx
      ∧ (∀ d d', c.enBit.get d < c.antLsb.get d' ∨ c.antLsb.get d' + c.antW ≤ c.enBit.get d)
      ∧ (∀ d d', d ≠ d' → c.antLsb.get d + c.antW ≤ c.antLsb.get d'
          ∨ c.antLsb.get d' + c.antW ≤ c.antLsb.get d) := by
  obtain ⟨-, h, -⟩ := Cfg.legal_iff.mp h
  simp only [Cfg.rffeFieldsLegal, spansApart, Bool.and_eq_true, Bool.or_eq_true,
    decide_eq_true_eq] at h
  refine ⟨?_, ?_, by omega, ?_, ?_⟩
  · rintro (_ | _) <;> simp only [PerDir.get] <;> omega
  · rintro (_ | _) <;> simp only [PerDir.get] <;> omega
  · rintro (_ | _) (_ | _) <;> simp only [PerDir.get] <;> omega
  · rintro (_ | _) (_ | _) hd <;> simp only [PerDir.get] <;> first | exact absurd rfl hd | omega

theorem Cfg.legal_antCode (h : c.legal = true) (d : Dir) (b : Band) :
    c.antCodeOf d b < 2 ^ c.antW := by
  obtain ⟨-, -, h, -⟩ := Cfg.legal_iff.mp h
  simp only [Cfg.antCodesLegal, List.all_cons, List.all_nil, Bool.and_eq_true,
    decide_eq_true_eq] at h
  cases d <;> cases b <;> simp only [Cfg.antCodeOf, PerDir.get, PerBand.get] <;> tauto

theorem Cfg.legal_rffeInit (h : c.legal = true) :
    c.rffeInit < 2 ^ c.rffeBits ∧ ∀ d, c.enabledIn d c.rffeInit = false := by
  obtain ⟨-, -, -, h, -⟩ := Cfg.legal_iff.mp h
  simp only [Cfg.rffeInitLegal, Bool.and_eq_true, decide_eq_true_eq, Bool.not_eq_true'] at h
  refine ⟨h.1.1, ?_⟩
  rintro (_ | _) <;> simp only [Cfg.enabledIn, PerDir.get] <;> tauto

theorem Cfg.legal_shutdownPort (h : c.legal = true) (d : Dir) : c.portOf d .shutdown = 0 := by
  obtain ⟨-, -, -, -, -, -, h, -⟩ := Cfg.legal_iff.mp h
  simp only [Cfg.portsLegal, List.all_cons, List.all_nil, Bool.and_eq_true,
    decide_eq_true_eq] at h
  cases d <;> tauto

/-- A correction that shares no register: what that says of one register. -/
theorem Cfg.slotApart_single {ch : Chan} {k : Kind} {b : CorrBand} {e : SingleEntry}
    (h : c.slotApart ch k b = true) (he : c.slot ch k = .single e) (ch' : Chan) :
    e.reg.get b ≠ c.forceReg.get ch' := by
  simp only [Cfg.slotApart, he, List.all_eq_true, decide_eq_true_eq] at h
  exact h ch' (Chan.mem_all ch')

/-- What it says of a pair. -/
theorem Cfg.slotApart_pair {ch : Chan} {k : Kind} {b : CorrBand} {e : PairEntry}
    (h : c.slotApart ch k b = true) (he : c.slot ch k = .pair e) (ch' : Chan) :
    (e.reg.get b).top ≠ c.forceReg.get ch' ∧ (e.reg.get b).bot ≠ c.forceReg.get ch'
      ∧ (e.reg.get b).top ≠ (e.reg.get b).bot := by
  simp only [Cfg.slotApart, he, List.all_eq_true, Bool.and_eq_true, decide_eq_true_eq] at h
  have := h ch' (Chan.mem_all ch')
  tauto

theorem Cfg.slotLegal_single {e : SingleEntry} (h : c.slotLegal (.single e) = true) :
    (∀ b, c.feHas (e.reg.get b) = true) ∧ (e.shift = 5 ∨ e.shift = 6) := by
  simp only [Cfg.slotLegal, Bool.and_eq_true, Bool.or_eq_true, decide_eq_true_eq] at h
  refine ⟨?_, h.2⟩
  rintro (_ | _) <;> simp only [PerCorrBand.get] <;> tauto

theorem Cfg.slotLegal_pair {e : PairEntry} (h : c.slotLegal (.pair e) = true) :
    (∀ b, c.feHas (e.reg.get b).top = true ∧ c.feHas (e.reg.get b).bot = true)
      ∧ e.layout.legal = true := by
  simp only [Cfg.slotLegal, Bool.and_eq_true] at h
  refine ⟨?_, h.2⟩
  rintro (_ | _) <;> simp only [PerCorrBand.get] <;> tauto

/-! Which registers and bits hold. -/

theorem Cfg.isForceReg_forceReg (ch : Chan) : c.isForceReg (c.forceReg.get ch).toNat = true := by
  simp only [Cfg.isForceReg, List.any_eq_true, decide_eq_true_eq]
  exact ⟨ch, Chan.mem_all ch, rfl⟩

theorem Cfg.mem_corrFields {ch : Chan} {k : Kind} {b : CorrBand} {f : CorrField}
    (h : f ∈ c.fieldsOf ch k b) : f ∈ c.corrFields ∧ f.ch = ch ∧ f.kind = k ∧ f.band = b := by
  constructor
  · simp only [Cfg.corrFields, List.mem_flatMap]
    exact ⟨ch, Chan.mem_all ch, k, Kind.mem_all k, b, CorrBand.mem_all b, h⟩
  · unfold Cfg.fieldsOf at h
    split at h <;> simp only [List.mem_cons, List.not_mem_nil, or_false] at h
    · subst h; simp
    · rcases h with h | h <;> subst h <;> simp

namespace Machine

variable {s : State}

theorem State.holdsWhole_iff (s : State) (a : Nat) :
    s.holdsWhole a = true ↔ s.cfg.isForceReg a = true
      ∨ s.cfg.fieldsAt a ≠ [] ∧ ∀ f ∈ s.cfg.fieldsAt a, s.forced f.ch f.kind f.band = true := by
  simp [State.holdsWhole, State.fieldForced]

theorem State.holdsWhole_forceReg (s : State) (ch : Chan) :
    s.holdsWhole (s.cfg.forceReg.get ch).toNat = true :=
  (s.holdsWhole_iff _).mpr (.inl (Cfg.isForceReg_forceReg ch))

theorem State.heldBits_forceReg (s : State) (ch : Chan) :
    s.heldBits (s.cfg.forceReg.get ch).toNat = 0xFF := by
  simp [State.heldBits, s.holdsWhole_forceReg ch]

/-- Through a write to an opaque register a register keeps all its bits or none. -/
theorem State.heldWhole_of_holds {a : Nat} (h : s.holdsWhole a = true) : s.heldWhole a = 0xFF := by
  simp [State.heldWhole, h]

theorem State.heldWhole_of_not_holds {a : Nat} (h : s.holdsWhole a = false) : s.heldWhole a = 0 := by
  simp [State.heldWhole, h]

theorem heldFold_keeps (s : State) (fs : List CorrField) (m : Byte) (i : Nat)
    (h : m.getLsbD i = true) :
    (fs.foldl (fun m f => if s.fieldForced f then m ||| f.bits else m) m).getLsbD i = true := by
  induction fs generalizing m with
  | nil => exact h
  | cons f fs ih =>
    rw [List.foldl_cons]
    apply ih
    split
    · simp [h]
    · exact h

theorem heldFold_has (s : State) (fs : List CorrField) (m : Byte) {f : CorrField} (hf : f ∈ fs)
    (hs : s.fieldForced f = true) (i : Nat) (h : f.bits.getLsbD i = true) :
    (fs.foldl (fun m f => if s.fieldForced f then m ||| f.bits else m) m).getLsbD i = true := by
  induction fs generalizing m with
  | nil => cases hf
  | cons g fs ih =>
    rw [List.foldl_cons]
    rcases List.mem_cons.mp hf with rfl | hf
    · apply heldFold_keeps
      simp [hs, h]
    · exact ih _ hf

/-- Every bit of a forced correction is held. -/
theorem State.heldBits_field {ch : Chan} {k : Kind} {b : CorrBand} {f : CorrField}
    (h : f ∈ s.cfg.fieldsOf ch k b) (hf : s.forced ch k b = true) (i : Nat)
    (hi : f.bits.getLsbD i = true) : (s.heldBits f.reg.toNat).getLsbD i = true := by
  have hi8 : i < 8 := BitVec.lt_of_getLsbD hi
  have hall : (0xFF : Byte).getLsbD i = true := by
    interval_cases i <;> rfl
  obtain ⟨hm, rfl, rfl, rfl⟩ := Cfg.mem_corrFields h
  have hin : f ∈ s.cfg.fieldsAt f.reg.toNat := by simp [Cfg.fieldsAt, hm]
  unfold State.heldBits
  split
  · exact hall
  · exact heldFold_has s _ _ hin hf i hi

/-- A register whose corrections are all unforced holds no bit. -/
theorem State.heldBits_unforced {a : Nat} (h : s.cfg.isForceReg a = false)
    (hu : ∀ f ∈ s.cfg.fieldsAt a, s.forced f.ch f.kind f.band = false) : s.heldBits a = 0 := by
  have hfold : ∀ (fs : List CorrField) (m : Byte),
      (∀ f ∈ fs, s.forced f.ch f.kind f.band = false) →
      fs.foldl (fun m f => if s.fieldForced f then m ||| f.bits else m) m = m := by
    intro fs
    induction fs with
    | nil => simp
    | cons f fs ih =>
      intro m hh
      rw [List.foldl_cons, if_neg (by simp [State.fieldForced, hh f (by simp)])]
      exact ih _ fun g hg => hh g (by simp [hg])
  unfold State.heldBits
  rw [if_neg, hfold _ _ hu]
  rw [s.holdsWhole_iff, h]
  rintro (h | ⟨hne, hall⟩)
  · cases h
  · obtain ⟨f, hf⟩ := List.exists_mem_of_ne_nil _ hne
    have := hall f hf
    rw [hu f hf] at this
    cases this

end Machine

end Sys2Proof
end

