-- ==== Sys2Proof/Laws/Memory.lean ====
section
/-!
SUPPORT. The laws of the front-end register space: a register reads what was last put into it, every
other register is left alone, and every operation keeps the canonical form.
-/

namespace Sys2Proof.Machine

theorem feGet_cons_ne {a b : Nat} {w : Byte} {m : List Host.Cell} (h : b ≠ a) :
    feGet ((b, w) :: m) a = feGet m a := by
  simp [feGet, h]

theorem feGet_feCons {a b : Nat} {v : Byte} {m : List Host.Cell}
    (h : feGet m a = feUnlisted) :
    feGet (feCons a v m) b = if b = a then v else feGet m b := by
  unfold feCons
  by_cases hv : v = feUnlisted <;> by_cases hb : b = a
  · subst hb; simp [hv, h]
  · simp [hv, hb]
  · subst hb; simp [hv, feGet]
  · simp [hv, hb, feGet, Ne.symm hb]

/-- In canonical form a register below every listed one is not listed. -/
theorem feGet_of_all_lt {a : Nat} {m : List Host.Cell} (h : ∀ c ∈ m, a < c.1) :
    feGet m a = feUnlisted := by
  induction m with
  | nil => rfl
  | cons c m ih =>
    have hc := h c (by simp)
    rw [show c = (c.1, c.2) from rfl, feGet_cons_ne (by omega)]
    exact ih fun d hd => h d (by simp [hd])

theorem feWf_cons {a : Nat} {v : Byte} {m : List Host.Cell} :
    feWf ((a, v) :: m) = true ↔ v ≠ feUnlisted ∧ (∀ c ∈ m, a < c.1) ∧ feWf m = true := by
  simp [feWf, and_assoc]

/-- `fe_reg[a] <- v`, then any read. -/
theorem feGet_fePut {m : List Host.Cell} (hm : feWf m = true) (a b : Nat) (v : Byte) :
    feGet (fePut m a v) b = if b = a then v else feGet m b := by
  induction m with
  | nil => exact feGet_feCons rfl
  | cons c m ih =>
    obtain ⟨k, w⟩ := c
    obtain ⟨-, hlt, hm'⟩ := feWf_cons.mp hm
    unfold fePut
    split
    · rename_i hak
      apply feGet_feCons
      apply feGet_of_all_lt
      intro c hc
      rcases List.mem_cons.mp hc with rfl | hc
      · exact hak
      · exact hak.trans (hlt c hc)
    · split
      · rename_i h1 h2
        subst h2
        rw [feGet_feCons (feGet_of_all_lt hlt)]
        by_cases hb : b = a
        · simp [hb]
        · simp [hb, feGet, Ne.symm hb]
      · rename_i h1 h2
        by_cases hk : k = b
        · subst hk; simp [feGet, Ne.symm h2]
        · rw [feGet_cons_ne hk, feGet_cons_ne hk, ih hm']

/-- A write leaves every other register alone, whatever the form of the list. -/
theorem feGet_fePut_ne {a b : Nat} (v : Byte) (m : List Host.Cell) (h : b ≠ a) :
    feGet (fePut m a v) b = feGet m b := by
  have hcons : ∀ l, feGet (feCons a v l) b = feGet l b := by
    intro l; unfold feCons; split
    · rfl
    · exact feGet_cons_ne (Ne.symm h)
  induction m with
  | nil => exact hcons []
  | cons c m ih =>
    obtain ⟨k, w⟩ := c
    unfold fePut
    split
    · exact hcons _
    · split
      · rename_i h2; subst h2; rw [hcons, feGet_cons_ne (Ne.symm h)]
      · by_cases hk : k = b
        · subst hk; simp [feGet]
        · rw [feGet_cons_ne hk, feGet_cons_ne hk, ih]

theorem mem_feCons {a : Nat} {v : Byte} {m : List Host.Cell} {c : Host.Cell}
    (h : c ∈ feCons a v m) : c.1 = a ∨ c ∈ m := by
  unfold feCons at h
  split at h
  · exact .inr h
  · rcases List.mem_cons.mp h with rfl | h
    · exact .inl rfl
    · exact .inr h

theorem mem_fePut {m : List Host.Cell} {a : Nat} {v : Byte} {c : Host.Cell}
    (h : c ∈ fePut m a v) : c.1 = a ∨ c ∈ m := by
  induction m with
  | nil => exact mem_feCons h
  | cons d m ih =>
    obtain ⟨k, w⟩ := d
    unfold fePut at h
    split at h
    · exact mem_feCons h
    · split at h
      · exact (mem_feCons h).imp_right (List.mem_cons_of_mem _)
      · rcases List.mem_cons.mp h with rfl | h
        · simp
        · exact (ih h).imp_right (List.mem_cons_of_mem _)

theorem feWf_feCons {a : Nat} {v : Byte} {m : List Host.Cell} (hm : feWf m = true)
    (h : ∀ c ∈ m, a < c.1) : feWf (feCons a v m) = true := by
  unfold feCons
  split
  · exact hm
  · rename_i hv; exact feWf_cons.mpr ⟨hv, h, hm⟩

/-- A write keeps the canonical form. -/
theorem feWf_fePut {m : List Host.Cell} (hm : feWf m = true) (a : Nat) (v : Byte) :
    feWf (fePut m a v) = true := by
  induction m with
  | nil => exact feWf_feCons rfl (by simp)
  | cons c m ih =>
    obtain ⟨k, w⟩ := c
    obtain ⟨hw, hlt, hm'⟩ := feWf_cons.mp hm
    unfold fePut
    split
    · rename_i hak
      refine feWf_feCons hm fun c hc => ?_
      rcases List.mem_cons.mp hc with rfl | hc
      · exact hak
      · exact hak.trans (hlt c hc)
    · split
      · rename_i h2; subst h2; exact feWf_feCons hm' hlt
      · refine feWf_cons.mpr ⟨hw, fun c hc => ?_, ih hm'⟩
        rcases mem_fePut hc with hc | hc
        · omega
        · exact hlt c hc

theorem feWithin_iff {size : Nat} {m : List Host.Cell} :
    feWithin size m = true ↔ ∀ c ∈ m, c.1 < size := by
  simp [feWithin]

/-- A write inside the space stays inside it. -/
theorem feWithin_fePut {size : Nat} {m : List Host.Cell} (hm : feWithin size m = true) {a : Nat}
    (ha : a < size) (v : Byte) : feWithin size (fePut m a v) = true := by
  rw [feWithin_iff] at *
  intro c hc
  rcases mem_fePut hc with hc | hc
  · omega
  · exact hm c hc

/-- The cells of `f` over any list of addresses. -/
def feCells (f : Nat → Byte) (l : List Nat) : List Host.Cell :=
  l.filterMap fun a => if f a = feUnlisted then none else some (a, f a)

theorem feCells_cons (f : Nat → Byte) (a : Nat) (l : List Nat) :
    feCells f (a :: l) = feCons a (f a) (feCells f l) := by
  unfold feCells feCons
  by_cases h : f a = feUnlisted <;> simp [h]

theorem mem_feCells {f : Nat → Byte} {l : List Nat} {c : Host.Cell} (h : c ∈ feCells f l) :
    c.1 ∈ l := by
  obtain ⟨a, ha, hc⟩ := List.mem_filterMap.mp h
  split at hc
  · cases hc
  · cases hc; exact ha

theorem feGet_feCells (f : Nat → Byte) (l : List Nat) (hl : l.Pairwise (· < ·)) (a : Nat) :
    feGet (feCells f l) a = if a ∈ l then f a else feUnlisted := by
  induction l with
  | nil => simp [feCells, feGet]
  | cons b l ih =>
    obtain ⟨hb, hl⟩ := List.pairwise_cons.mp hl
    rw [feCells_cons, feGet_feCons, ih hl]
    · by_cases hab : a = b
      · subst hab; simp
      · simp [hab]
    · exact feGet_of_all_lt fun c hc => hb _ (mem_feCells hc)

theorem feWf_feCells (f : Nat → Byte) (l : List Nat) (hl : l.Pairwise (· < ·)) :
    feWf (feCells f l) = true := by
  induction l with
  | nil => rfl
  | cons b l ih =>
    obtain ⟨hb, hl⟩ := List.pairwise_cons.mp hl
    rw [feCells_cons]
    exact feWf_feCons (ih hl) fun c hc => hb _ (mem_feCells hc)

theorem feTabulate_eq (size : Nat) (f : Nat → Byte) : feTabulate size f = feCells f (List.range size) :=
  rfl

@[simp] theorem feGet_feTabulate (size : Nat) (f : Nat → Byte) (a : Nat) :
    feGet (feTabulate size f) a = if a < size then f a else feUnlisted := by
  rw [feTabulate_eq, feGet_feCells f _ List.pairwise_lt_range]
  simp

@[simp] theorem feWf_feTabulate (size : Nat) (f : Nat → Byte) : feWf (feTabulate size f) = true :=
  feWf_feCells f _ List.pairwise_lt_range

@[simp] theorem feWithin_feTabulate (size : Nat) (f : Nat → Byte) :
    feWithin size (feTabulate size f) = true := by
  rw [feWithin_iff]
  intro c hc
  exact List.mem_range.mp (mem_feCells (l := List.range size) hc)

/-- What a register reads after a refresh: the held bits as before, free values elsewhere. -/
theorem feGet_feRefresh (size : Nat) (keep : Nat → Byte) (n : Nat) (m : List Host.Cell) (a : Nat)
    (ha : a < size) :
    feGet (feRefresh size keep n m) a
      = (feGet m a &&& keep a) ||| (Config.freeByte n a &&& ~~~(keep a)) := by
  simp [feRefresh, ha]

@[simp] theorem feWf_feRefresh (size : Nat) (keep : Nat → Byte) (n : Nat) (m : List Host.Cell) :
    feWf (feRefresh size keep n m) = true :=
  feWf_feTabulate _ _

@[simp] theorem feWithin_feRefresh (size : Nat) (keep : Nat → Byte) (n : Nat) (m : List Host.Cell) :
    feWithin size (feRefresh size keep n m) = true :=
  feWithin_feTabulate _ _

/-- A refresh leaves the held bits of every register of the space. -/
theorem feGet_feRefresh_held (size : Nat) (keep : Nat → Byte) (n : Nat) (m : List Host.Cell) (a : Nat)
    (ha : a < size) :
    feGet (feRefresh size keep n m) a &&& keep a = feGet m a &&& keep a := by
  rw [feGet_feRefresh size keep n m a ha]
  ext i hi
  simp
  cases (keep a)[i] <;> simp

end Sys2Proof.Machine
end

