-- ==== Sys2Proof/Laws/State.lean ====
section
/-!
SUPPORT. The fields of a state after each named update, one lemma per field per update, and how
`after` (calls made) moves past the other updates.
-/

namespace Sys2Proof.Machine

variable (s : State)

@[simp] theorem State.respond_cfg (st : BitVec 32) (v : BitVec 64) :
    (s.respond st v).cfg = s.cfg := rfl
@[simp] theorem State.respond_bstate (st : BitVec 32) (v : BitVec 64) :
    (s.respond st v).bstate = s.bstate := rfl
@[simp] theorem State.respond_rffe (st : BitVec 32) (v : BitVec 64) :
    (s.respond st v).rffe = s.rffe := rfl
@[simp] theorem State.respond_fe (st : BitVec 32) (v : BitVec 64) :
    (s.respond st v).fe = s.fe := rfl
@[simp] theorem State.respond_port (st : BitVec 32) (v : BitVec 64) :
    (s.respond st v).port = s.port := rfl
@[simp] theorem State.respond_loFreq (st : BitVec 32) (v : BitVec 64) :
    (s.respond st v).loFreq = s.loFreq := rfl
@[simp] theorem State.respond_modEn (st : BitVec 32) (v : BitVec 64) :
    (s.respond st v).modEn = s.modEn := rfl
@[simp] theorem State.respond_syncHandle (st : BitVec 32) (v : BitVec 64) :
    (s.respond st v).syncHandle = s.syncHandle := rfl
@[simp] theorem State.respond_pending (st : BitVec 32) (v : BitVec 64) :
    (s.respond st v).pending = s.pending := rfl
@[simp] theorem State.respond_response (st : BitVec 32) (v : BitVec 64) :
    (s.respond st v).response = some ⟨st, v⟩ := rfl
@[simp] theorem State.respond_replies (st : BitVec 32) (v : BitVec 64) :
    (s.respond st v).replies = s.replies := rfl
@[simp] theorem State.respond_calls (st : BitVec 32) (v : BitVec 64) :
    (s.respond st v).calls = s.calls := rfl
@[simp] theorem State.respond_freeCount (st : BitVec 32) (v : BitVec 64) :
    (s.respond st v).freeCount = s.freeCount := rfl

@[simp] theorem State.after_cfg (cs : List Call) : (s.after cs).cfg = s.cfg := rfl
@[simp] theorem State.after_bstate (cs : List Call) : (s.after cs).bstate = s.bstate := rfl
@[simp] theorem State.after_rffe (cs : List Call) : (s.after cs).rffe = s.rffe := rfl
@[simp] theorem State.after_fe (cs : List Call) : (s.after cs).fe = s.fe := rfl
@[simp] theorem State.after_port (cs : List Call) : (s.after cs).port = s.port := rfl
@[simp] theorem State.after_loFreq (cs : List Call) : (s.after cs).loFreq = s.loFreq := rfl
@[simp] theorem State.after_modEn (cs : List Call) : (s.after cs).modEn = s.modEn := rfl
@[simp] theorem State.after_syncHandle (cs : List Call) :
    (s.after cs).syncHandle = s.syncHandle := rfl
@[simp] theorem State.after_pending (cs : List Call) : (s.after cs).pending = s.pending := rfl
@[simp] theorem State.after_response (cs : List Call) : (s.after cs).response = s.response := rfl
@[simp] theorem State.after_replies (cs : List Call) :
    (s.after cs).replies = s.replies.drop cs.length := rfl
@[simp] theorem State.after_calls (cs : List Call) : (s.after cs).calls = s.calls ++ cs := rfl
@[simp] theorem State.after_freeCount (cs : List Call) : (s.after cs).freeCount = s.freeCount := rfl

@[simp] theorem State.logged_cfg (c : Call) : (s.logged c).cfg = s.cfg := rfl
@[simp] theorem State.logged_bstate (c : Call) : (s.logged c).bstate = s.bstate := rfl
@[simp] theorem State.logged_rffe (c : Call) : (s.logged c).rffe = s.rffe := rfl
@[simp] theorem State.logged_fe (c : Call) : (s.logged c).fe = s.fe := rfl
@[simp] theorem State.logged_port (c : Call) : (s.logged c).port = s.port := rfl
@[simp] theorem State.logged_loFreq (c : Call) : (s.logged c).loFreq = s.loFreq := rfl
@[simp] theorem State.logged_modEn (c : Call) : (s.logged c).modEn = s.modEn := rfl
@[simp] theorem State.logged_syncHandle (c : Call) : (s.logged c).syncHandle = s.syncHandle := rfl
@[simp] theorem State.logged_pending (c : Call) : (s.logged c).pending = s.pending := rfl
@[simp] theorem State.logged_response (c : Call) : (s.logged c).response = s.response := rfl
@[simp] theorem State.logged_replies (c : Call) : (s.logged c).replies = s.replies := rfl
@[simp] theorem State.logged_calls (c : Call) : (s.logged c).calls = s.calls ++ [c] := rfl
@[simp] theorem State.logged_freeCount (c : Call) : (s.logged c).freeCount = s.freeCount := rfl

@[simp] theorem State.setFe_cfg (a : RegAddr) (v : Byte) : (s.setFe a v).cfg = s.cfg := rfl
@[simp] theorem State.setFe_bstate (a : RegAddr) (v : Byte) : (s.setFe a v).bstate = s.bstate := rfl
@[simp] theorem State.setFe_rffe (a : RegAddr) (v : Byte) : (s.setFe a v).rffe = s.rffe := rfl
@[simp] theorem State.setFe_fe (a : RegAddr) (v : Byte) :
    (s.setFe a v).fe = fePut s.fe a.toNat v := rfl
@[simp] theorem State.setFe_port (a : RegAddr) (v : Byte) : (s.setFe a v).port = s.port := rfl
@[simp] theorem State.setFe_loFreq (a : RegAddr) (v : Byte) : (s.setFe a v).loFreq = s.loFreq := rfl
@[simp] theorem State.setFe_modEn (a : RegAddr) (v : Byte) : (s.setFe a v).modEn = s.modEn := rfl
@[simp] theorem State.setFe_syncHandle (a : RegAddr) (v : Byte) :
    (s.setFe a v).syncHandle = s.syncHandle := rfl
@[simp] theorem State.setFe_pending (a : RegAddr) (v : Byte) :
    (s.setFe a v).pending = s.pending := rfl
@[simp] theorem State.setFe_response (a : RegAddr) (v : Byte) :
    (s.setFe a v).response = s.response := rfl
@[simp] theorem State.setFe_replies (a : RegAddr) (v : Byte) :
    (s.setFe a v).replies = s.replies := rfl
@[simp] theorem State.setFe_calls (a : RegAddr) (v : Byte) : (s.setFe a v).calls = s.calls := rfl
@[simp] theorem State.setFe_freeCount (a : RegAddr) (v : Byte) :
    (s.setFe a v).freeCount = s.freeCount := rfl

@[simp] theorem State.withBstate_cfg (b : BoardState) : (s.withBstate b).cfg = s.cfg := rfl
@[simp] theorem State.withBstate_bstate (b : BoardState) : (s.withBstate b).bstate = b := rfl
@[simp] theorem State.withBstate_rffe (b : BoardState) : (s.withBstate b).rffe = s.rffe := rfl
@[simp] theorem State.withBstate_fe (b : BoardState) : (s.withBstate b).fe = s.fe := rfl
@[simp] theorem State.withBstate_port (b : BoardState) : (s.withBstate b).port = s.port := rfl
@[simp] theorem State.withBstate_loFreq (b : BoardState) : (s.withBstate b).loFreq = s.loFreq := rfl
@[simp] theorem State.withBstate_modEn (b : BoardState) : (s.withBstate b).modEn = s.modEn := rfl
@[simp] theorem State.withBstate_syncHandle (b : BoardState) :
    (s.withBstate b).syncHandle = s.syncHandle := rfl
@[simp] theorem State.withBstate_pending (b : BoardState) :
    (s.withBstate b).pending = s.pending := rfl
@[simp] theorem State.withBstate_response (b : BoardState) :
    (s.withBstate b).response = s.response := rfl
@[simp] theorem State.withBstate_replies (b : BoardState) :
    (s.withBstate b).replies = s.replies := rfl
@[simp] theorem State.withBstate_calls (b : BoardState) : (s.withBstate b).calls = s.calls := rfl
@[simp] theorem State.withBstate_freeCount (b : BoardState) :
    (s.withBstate b).freeCount = s.freeCount := rfl

@[simp] theorem State.withRffe_cfg (v : Rffe) : (s.withRffe v).cfg = s.cfg := rfl
@[simp] theorem State.withRffe_bstate (v : Rffe) : (s.withRffe v).bstate = s.bstate := rfl
@[simp] theorem State.withRffe_rffe (v : Rffe) : (s.withRffe v).rffe = v := rfl
@[simp] theorem State.withRffe_fe (v : Rffe) : (s.withRffe v).fe = s.fe := rfl
@[simp] theorem State.withRffe_port (v : Rffe) : (s.withRffe v).port = s.port := rfl
@[simp] theorem State.withRffe_loFreq (v : Rffe) : (s.withRffe v).loFreq = s.loFreq := rfl
@[simp] theorem State.withRffe_modEn (v : Rffe) : (s.withRffe v).modEn = s.modEn := rfl
@[simp] theorem State.withRffe_syncHandle (v : Rffe) :
    (s.withRffe v).syncHandle = s.syncHandle := rfl
@[simp] theorem State.withRffe_pending (v : Rffe) : (s.withRffe v).pending = s.pending := rfl
@[simp] theorem State.withRffe_response (v : Rffe) : (s.withRffe v).response = s.response := rfl
@[simp] theorem State.withRffe_replies (v : Rffe) : (s.withRffe v).replies = s.replies := rfl
@[simp] theorem State.withRffe_calls (v : Rffe) : (s.withRffe v).calls = s.calls := rfl
@[simp] theorem State.withRffe_freeCount (v : Rffe) : (s.withRffe v).freeCount = s.freeCount := rfl

@[simp] theorem State.withPort_cfg (d : Dir) (p : PortId) : (s.withPort d p).cfg = s.cfg := rfl
@[simp] theorem State.withPort_bstate (d : Dir) (p : PortId) :
    (s.withPort d p).bstate = s.bstate := rfl
@[simp] theorem State.withPort_rffe (d : Dir) (p : PortId) : (s.withPort d p).rffe = s.rffe := rfl
@[simp] theorem State.withPort_fe (d : Dir) (p : PortId) : (s.withPort d p).fe = s.fe := rfl
@[simp] theorem State.withPort_port (d : Dir) (p : PortId) :
    (s.withPort d p).port = s.port.set d p := rfl
@[simp] theorem State.withPort_loFreq (d : Dir) (p : PortId) :
    (s.withPort d p).loFreq = s.loFreq := rfl
@[simp] theorem State.withPort_modEn (d : Dir) (p : PortId) :
    (s.withPort d p).modEn = s.modEn := rfl
@[simp] theorem State.withPort_syncHandle (d : Dir) (p : PortId) :
    (s.withPort d p).syncHandle = s.syncHandle := rfl
@[simp] theorem State.withPort_pending (d : Dir) (p : PortId) :
    (s.withPort d p).pending = s.pending := rfl
@[simp] theorem State.withPort_response (d : Dir) (p : PortId) :
    (s.withPort d p).response = s.response := rfl
@[simp] theorem State.withPort_replies (d : Dir) (p : PortId) :
    (s.withPort d p).replies = s.replies := rfl
@[simp] theorem State.withPort_calls (d : Dir) (p : PortId) :
    (s.withPort d p).calls = s.calls := rfl
@[simp] theorem State.withPort_freeCount (d : Dir) (p : PortId) :
    (s.withPort d p).freeCount = s.freeCount := rfl

@[simp] theorem State.withLo_cfg (d : Dir) (f : Freq) : (s.withLo d f).cfg = s.cfg := rfl
@[simp] theorem State.withLo_bstate (d : Dir) (f : Freq) : (s.withLo d f).bstate = s.bstate := rfl
@[simp] theorem State.withLo_rffe (d : Dir) (f : Freq) : (s.withLo d f).rffe = s.rffe := rfl
@[simp] theorem State.withLo_fe (d : Dir) (f : Freq) : (s.withLo d f).fe = s.fe := rfl
@[simp] theorem State.withLo_port (d : Dir) (f : Freq) : (s.withLo d f).port = s.port := rfl
@[simp] theorem State.withLo_loFreq (d : Dir) (f : Freq) :
    (s.withLo d f).loFreq = s.loFreq.set d f := rfl
@[simp] theorem State.withLo_modEn (d : Dir) (f : Freq) : (s.withLo d f).modEn = s.modEn := rfl
@[simp] theorem State.withLo_syncHandle (d : Dir) (f : Freq) :
    (s.withLo d f).syncHandle = s.syncHandle := rfl
@[simp] theorem State.withLo_pending (d : Dir) (f : Freq) :
    (s.withLo d f).pending = s.pending := rfl
@[simp] theorem State.withLo_response (d : Dir) (f : Freq) :
    (s.withLo d f).response = s.response := rfl
@[simp] theorem State.withLo_replies (d : Dir) (f : Freq) :
    (s.withLo d f).replies = s.replies := rfl
@[simp] theorem State.withLo_calls (d : Dir) (f : Freq) : (s.withLo d f).calls = s.calls := rfl
@[simp] theorem State.withLo_freeCount (d : Dir) (f : Freq) :
    (s.withLo d f).freeCount = s.freeCount := rfl

@[simp] theorem State.withModEn_cfg (d : Dir) (e : Bool) : (s.withModEn d e).cfg = s.cfg := rfl
@[simp] theorem State.withModEn_bstate (d : Dir) (e : Bool) :
    (s.withModEn d e).bstate = s.bstate := rfl
@[simp] theorem State.withModEn_rffe (d : Dir) (e : Bool) : (s.withModEn d e).rffe = s.rffe := rfl
@[simp] theorem State.withModEn_fe (d : Dir) (e : Bool) : (s.withModEn d e).fe = s.fe := rfl
@[simp] theorem State.withModEn_port (d : Dir) (e : Bool) : (s.withModEn d e).port = s.port := rfl
@[simp] theorem State.withModEn_loFreq (d : Dir) (e : Bool) :
    (s.withModEn d e).loFreq = s.loFreq := rfl
@[simp] theorem State.withModEn_modEn (d : Dir) (e : Bool) :
    (s.withModEn d e).modEn = s.modEn.set d e := rfl
@[simp] theorem State.withModEn_syncHandle (d : Dir) (e : Bool) :
    (s.withModEn d e).syncHandle = s.syncHandle := rfl
@[simp] theorem State.withModEn_pending (d : Dir) (e : Bool) :
    (s.withModEn d e).pending = s.pending := rfl
@[simp] theorem State.withModEn_response (d : Dir) (e : Bool) :
    (s.withModEn d e).response = s.response := rfl
@[simp] theorem State.withModEn_replies (d : Dir) (e : Bool) :
    (s.withModEn d e).replies = s.replies := rfl
@[simp] theorem State.withModEn_calls (d : Dir) (e : Bool) :
    (s.withModEn d e).calls = s.calls := rfl
@[simp] theorem State.withModEn_freeCount (d : Dir) (e : Bool) :
    (s.withModEn d e).freeCount = s.freeCount := rfl

@[simp] theorem State.withHandle_cfg (d : Dir) (e : Bool) : (s.withHandle d e).cfg = s.cfg := rfl
@[simp] theorem State.withHandle_bstate (d : Dir) (e : Bool) :
    (s.withHandle d e).bstate = s.bstate := rfl
@[simp] theorem State.withHandle_rffe (d : Dir) (e : Bool) : (s.withHandle d e).rffe = s.rffe := rfl
@[simp] theorem State.withHandle_fe (d : Dir) (e : Bool) : (s.withHandle d e).fe = s.fe := rfl
@[simp] theorem State.withHandle_port (d : Dir) (e : Bool) : (s.withHandle d e).port = s.port := rfl
@[simp] theorem State.withHandle_loFreq (d : Dir) (e : Bool) :
    (s.withHandle d e).loFreq = s.loFreq := rfl
@[simp] theorem State.withHandle_modEn (d : Dir) (e : Bool) :
    (s.withHandle d e).modEn = s.modEn := rfl
@[simp] theorem State.withHandle_syncHandle (d : Dir) (e : Bool) :
    (s.withHandle d e).syncHandle = s.syncHandle.set d e := rfl
@[simp] theorem State.withHandle_pending (d : Dir) (e : Bool) :
    (s.withHandle d e).pending = s.pending := rfl
@[simp] theorem State.withHandle_response (d : Dir) (e : Bool) :
    (s.withHandle d e).response = s.response := rfl
@[simp] theorem State.withHandle_replies (d : Dir) (e : Bool) :
    (s.withHandle d e).replies = s.replies := rfl
@[simp] theorem State.withHandle_calls (d : Dir) (e : Bool) :
    (s.withHandle d e).calls = s.calls := rfl
@[simp] theorem State.withHandle_freeCount (d : Dir) (e : Bool) :
    (s.withHandle d e).freeCount = s.freeCount := rfl

@[simp] theorem State.usedFree_cfg : (s.usedFree).cfg = s.cfg := rfl
@[simp] theorem State.usedFree_bstate : (s.usedFree).bstate = s.bstate := rfl
@[simp] theorem State.usedFree_rffe : (s.usedFree).rffe = s.rffe := rfl
@[simp] theorem State.usedFree_fe : (s.usedFree).fe = s.fe := rfl
@[simp] theorem State.usedFree_port : (s.usedFree).port = s.port := rfl
@[simp] theorem State.usedFree_loFreq : (s.usedFree).loFreq = s.loFreq := rfl
@[simp] theorem State.usedFree_modEn : (s.usedFree).modEn = s.modEn := rfl
@[simp] theorem State.usedFree_syncHandle : (s.usedFree).syncHandle = s.syncHandle := rfl
@[simp] theorem State.usedFree_pending : (s.usedFree).pending = s.pending := rfl
@[simp] theorem State.usedFree_response : (s.usedFree).response = s.response := rfl
@[simp] theorem State.usedFree_replies : (s.usedFree).replies = s.replies := rfl
@[simp] theorem State.usedFree_calls : (s.usedFree).calls = s.calls := rfl
@[simp] theorem State.usedFree_freeCount : (s.usedFree).freeCount = s.freeCount + 1 := rfl

@[simp] theorem State.fail_cfg (e : Err) : (s.fail e).cfg = s.cfg := rfl
@[simp] theorem State.fail_bstate (e : Err) : (s.fail e).bstate = s.bstate := rfl
@[simp] theorem State.fail_rffe (e : Err) : (s.fail e).rffe = s.rffe := rfl
@[simp] theorem State.fail_fe (e : Err) : (s.fail e).fe = s.fe := rfl
@[simp] theorem State.fail_port (e : Err) : (s.fail e).port = s.port := rfl
@[simp] theorem State.fail_loFreq (e : Err) : (s.fail e).loFreq = s.loFreq := rfl
@[simp] theorem State.fail_modEn (e : Err) : (s.fail e).modEn = s.modEn := rfl
@[simp] theorem State.fail_syncHandle (e : Err) : (s.fail e).syncHandle = s.syncHandle := rfl
@[simp] theorem State.fail_pending (e : Err) : (s.fail e).pending = s.pending := rfl
@[simp] theorem State.fail_response (e : Err) :
    (s.fail e).response = some ⟨s.cfg.errCode e, 0⟩ := rfl
@[simp] theorem State.fail_replies (e : Err) : (s.fail e).replies = s.replies := rfl
@[simp] theorem State.fail_calls (e : Err) : (s.fail e).calls = s.calls := rfl
@[simp] theorem State.fail_freeCount (e : Err) : (s.fail e).freeCount = s.freeCount := rfl

@[simp] theorem State.freeFe_cfg (a : RegAddr) : (s.freeFe a).cfg = s.cfg := rfl
@[simp] theorem State.freeFe_bstate (a : RegAddr) : (s.freeFe a).bstate = s.bstate := rfl
@[simp] theorem State.freeFe_rffe (a : RegAddr) : (s.freeFe a).rffe = s.rffe := rfl
@[simp] theorem State.freeFe_fe (a : RegAddr) :
    (s.freeFe a).fe = fePut s.fe a.toNat (Config.freeByte s.freeCount a.toNat) := rfl
@[simp] theorem State.freeFe_port (a : RegAddr) : (s.freeFe a).port = s.port := rfl
@[simp] theorem State.freeFe_loFreq (a : RegAddr) : (s.freeFe a).loFreq = s.loFreq := rfl
@[simp] theorem State.freeFe_modEn (a : RegAddr) : (s.freeFe a).modEn = s.modEn := rfl
@[simp] theorem State.freeFe_syncHandle (a : RegAddr) :
    (s.freeFe a).syncHandle = s.syncHandle := rfl
@[simp] theorem State.freeFe_pending (a : RegAddr) : (s.freeFe a).pending = s.pending := rfl
@[simp] theorem State.freeFe_response (a : RegAddr) : (s.freeFe a).response = s.response := rfl
@[simp] theorem State.freeFe_replies (a : RegAddr) : (s.freeFe a).replies = s.replies := rfl
@[simp] theorem State.freeFe_calls (a : RegAddr) : (s.freeFe a).calls = s.calls := rfl
@[simp] theorem State.freeFe_freeCount (a : RegAddr) :
    (s.freeFe a).freeCount = s.freeCount + 1 := rfl

@[simp] theorem State.freeFeOutside_cfg (keep : Nat → Byte) :
    (s.freeFeOutside keep).cfg = s.cfg := rfl
@[simp] theorem State.freeFeOutside_bstate (keep : Nat → Byte) :
    (s.freeFeOutside keep).bstate = s.bstate := rfl
@[simp] theorem State.freeFeOutside_rffe (keep : Nat → Byte) :
    (s.freeFeOutside keep).rffe = s.rffe := rfl
@[simp] theorem State.freeFeOutside_fe (keep : Nat → Byte) :
    (s.freeFeOutside keep).fe = feRefresh (2 ^ s.cfg.feAddrBits) keep s.freeCount s.fe := rfl
@[simp] theorem State.freeFeOutside_port (keep : Nat → Byte) :
    (s.freeFeOutside keep).port = s.port := rfl
@[simp] theorem State.freeFeOutside_loFreq (keep : Nat → Byte) :
    (s.freeFeOutside keep).loFreq = s.loFreq := rfl
@[simp] theorem State.freeFeOutside_modEn (keep : Nat → Byte) :
    (s.freeFeOutside keep).modEn = s.modEn := rfl
@[simp] theorem State.freeFeOutside_syncHandle (keep : Nat → Byte) :
    (s.freeFeOutside keep).syncHandle = s.syncHandle := rfl
@[simp] theorem State.freeFeOutside_pending (keep : Nat → Byte) :
    (s.freeFeOutside keep).pending = s.pending := rfl
@[simp] theorem State.freeFeOutside_response (keep : Nat → Byte) :
    (s.freeFeOutside keep).response = s.response := rfl
@[simp] theorem State.freeFeOutside_replies (keep : Nat → Byte) :
    (s.freeFeOutside keep).replies = s.replies := rfl
@[simp] theorem State.freeFeOutside_calls (keep : Nat → Byte) :
    (s.freeFeOutside keep).calls = s.calls := rfl
@[simp] theorem State.freeFeOutside_freeCount (keep : Nat → Byte) :
    (s.freeFeOutside keep).freeCount = s.freeCount + 1 := rfl

@[simp] theorem State.freeUnheld_cfg : (s.freeUnheld).cfg = s.cfg := rfl
@[simp] theorem State.freeUnheld_bstate : (s.freeUnheld).bstate = s.bstate := rfl
@[simp] theorem State.freeUnheld_rffe : (s.freeUnheld).rffe = s.rffe := rfl
@[simp] theorem State.freeUnheld_fe :
    (s.freeUnheld).fe = feRefresh (2 ^ s.cfg.feAddrBits) s.heldBits s.freeCount s.fe := rfl
@[simp] theorem State.freeUnheld_port : (s.freeUnheld).port = s.port := rfl
@[simp] theorem State.freeUnheld_loFreq : (s.freeUnheld).loFreq = s.loFreq := rfl
@[simp] theorem State.freeUnheld_modEn : (s.freeUnheld).modEn = s.modEn := rfl
@[simp] theorem State.freeUnheld_syncHandle : (s.freeUnheld).syncHandle = s.syncHandle := rfl
@[simp] theorem State.freeUnheld_pending : (s.freeUnheld).pending = s.pending := rfl
@[simp] theorem State.freeUnheld_response : (s.freeUnheld).response = s.response := rfl
@[simp] theorem State.freeUnheld_replies : (s.freeUnheld).replies = s.replies := rfl
@[simp] theorem State.freeUnheld_calls : (s.freeUnheld).calls = s.calls := rfl
@[simp] theorem State.freeUnheld_freeCount : (s.freeUnheld).freeCount = s.freeCount + 1 := rfl

@[simp] theorem State.freeRffe_cfg : (s.freeRffe).cfg = s.cfg := rfl
@[simp] theorem State.freeRffe_bstate : (s.freeRffe).bstate = s.bstate := rfl
@[simp] theorem State.freeRffe_rffe :
    (s.freeRffe).rffe = Config.freeRffe s.freeCount % 2 ^ s.cfg.rffeBits := rfl
@[simp] theorem State.freeRffe_fe : (s.freeRffe).fe = s.fe := rfl
@[simp] theorem State.freeRffe_port : (s.freeRffe).port = s.port := rfl
@[simp] theorem State.freeRffe_loFreq : (s.freeRffe).loFreq = s.loFreq := rfl
@[simp] theorem State.freeRffe_modEn : (s.freeRffe).modEn = s.modEn := rfl
@[simp] theorem State.freeRffe_syncHandle : (s.freeRffe).syncHandle = s.syncHandle := rfl
@[simp] theorem State.freeRffe_pending : (s.freeRffe).pending = s.pending := rfl
@[simp] theorem State.freeRffe_response : (s.freeRffe).response = s.response := rfl
@[simp] theorem State.freeRffe_replies : (s.freeRffe).replies = s.replies := rfl
@[simp] theorem State.freeRffe_calls : (s.freeRffe).calls = s.calls := rfl
@[simp] theorem State.freeRffe_freeCount : (s.freeRffe).freeCount = s.freeCount + 1 := rfl

@[simp] theorem State.freePort_cfg (d : Dir) : (s.freePort d).cfg = s.cfg := rfl
@[simp] theorem State.freePort_bstate (d : Dir) : (s.freePort d).bstate = s.bstate := rfl
@[simp] theorem State.freePort_rffe (d : Dir) : (s.freePort d).rffe = s.rffe := rfl
@[simp] theorem State.freePort_fe (d : Dir) : (s.freePort d).fe = s.fe := rfl
@[simp] theorem State.freePort_port (d : Dir) :
    (s.freePort d).port = s.port.set d (Config.freePort s.freeCount d) := rfl
@[simp] theorem State.freePort_loFreq (d : Dir) : (s.freePort d).loFreq = s.loFreq := rfl
@[simp] theorem State.freePort_modEn (d : Dir) : (s.freePort d).modEn = s.modEn := rfl
@[simp] theorem State.freePort_syncHandle (d : Dir) :
    (s.freePort d).syncHandle = s.syncHandle := rfl
@[simp] theorem State.freePort_pending (d : Dir) : (s.freePort d).pending = s.pending := rfl
@[simp] theorem State.freePort_response (d : Dir) : (s.freePort d).response = s.response := rfl
@[simp] theorem State.freePort_replies (d : Dir) : (s.freePort d).replies = s.replies := rfl
@[simp] theorem State.freePort_calls (d : Dir) : (s.freePort d).calls = s.calls := rfl
@[simp] theorem State.freePort_freeCount (d : Dir) :
    (s.freePort d).freeCount = s.freeCount + 1 := rfl

@[simp] theorem State.freeLo_cfg (d : Dir) : (s.freeLo d).cfg = s.cfg := rfl
@[simp] theorem State.freeLo_bstate (d : Dir) : (s.freeLo d).bstate = s.bstate := rfl
@[simp] theorem State.freeLo_rffe (d : Dir) : (s.freeLo d).rffe = s.rffe := rfl
@[simp] theorem State.freeLo_fe (d : Dir) : (s.freeLo d).fe = s.fe := rfl
@[simp] theorem State.freeLo_port (d : Dir) : (s.freeLo d).port = s.port := rfl
@[simp] theorem State.freeLo_loFreq (d : Dir) :
    (s.freeLo d).loFreq = s.loFreq.set d (Config.freeFreq s.freeCount d) := rfl
@[simp] theorem State.freeLo_modEn (d : Dir) : (s.freeLo d).modEn = s.modEn := rfl
@[simp] theorem State.freeLo_syncHandle (d : Dir) : (s.freeLo d).syncHandle = s.syncHandle := rfl
@[simp] theorem State.freeLo_pending (d : Dir) : (s.freeLo d).pending = s.pending := rfl
@[simp] theorem State.freeLo_response (d : Dir) : (s.freeLo d).response = s.response := rfl
@[simp] theorem State.freeLo_replies (d : Dir) : (s.freeLo d).replies = s.replies := rfl
@[simp] theorem State.freeLo_calls (d : Dir) : (s.freeLo d).calls = s.calls := rfl
@[simp] theorem State.freeLo_freeCount (d : Dir) : (s.freeLo d).freeCount = s.freeCount + 1 := rfl

@[simp] theorem State.freeModEn_cfg (d : Dir) : (s.freeModEn d).cfg = s.cfg := rfl
@[simp] theorem State.freeModEn_bstate (d : Dir) : (s.freeModEn d).bstate = s.bstate := rfl
@[simp] theorem State.freeModEn_rffe (d : Dir) : (s.freeModEn d).rffe = s.rffe := rfl
@[simp] theorem State.freeModEn_fe (d : Dir) : (s.freeModEn d).fe = s.fe := rfl
@[simp] theorem State.freeModEn_port (d : Dir) : (s.freeModEn d).port = s.port := rfl
@[simp] theorem State.freeModEn_loFreq (d : Dir) : (s.freeModEn d).loFreq = s.loFreq := rfl
@[simp] theorem State.freeModEn_modEn (d : Dir) :
    (s.freeModEn d).modEn = s.modEn.set d (Config.freeModEn s.freeCount d) := rfl
@[simp] theorem State.freeModEn_syncHandle (d : Dir) :
    (s.freeModEn d).syncHandle = s.syncHandle := rfl
@[simp] theorem State.freeModEn_pending (d : Dir) : (s.freeModEn d).pending = s.pending := rfl
@[simp] theorem State.freeModEn_response (d : Dir) : (s.freeModEn d).response = s.response := rfl
@[simp] theorem State.freeModEn_replies (d : Dir) : (s.freeModEn d).replies = s.replies := rfl
@[simp] theorem State.freeModEn_calls (d : Dir) : (s.freeModEn d).calls = s.calls := rfl
@[simp] theorem State.freeModEn_freeCount (d : Dir) :
    (s.freeModEn d).freeCount = s.freeCount + 1 := rfl

@[simp] theorem State.issue_cfg (c : Command) : (s.issue c).cfg = s.cfg := rfl
@[simp] theorem State.issue_bstate (c : Command) : (s.issue c).bstate = s.bstate := rfl
@[simp] theorem State.issue_rffe (c : Command) : (s.issue c).rffe = s.rffe := rfl
@[simp] theorem State.issue_fe (c : Command) : (s.issue c).fe = s.fe := rfl
@[simp] theorem State.issue_port (c : Command) : (s.issue c).port = s.port := rfl
@[simp] theorem State.issue_loFreq (c : Command) : (s.issue c).loFreq = s.loFreq := rfl
@[simp] theorem State.issue_modEn (c : Command) : (s.issue c).modEn = s.modEn := rfl
@[simp] theorem State.issue_syncHandle (c : Command) : (s.issue c).syncHandle = s.syncHandle := rfl
@[simp] theorem State.issue_pending (c : Command) : (s.issue c).pending = c :: s.pending := rfl
@[simp] theorem State.issue_response (c : Command) : (s.issue c).response = s.response := rfl
@[simp] theorem State.issue_replies (c : Command) : (s.issue c).replies = s.replies := rfl
@[simp] theorem State.issue_calls (c : Command) : (s.issue c).calls = s.calls := rfl
@[simp] theorem State.issue_freeCount (c : Command) : (s.issue c).freeCount = s.freeCount := rfl

@[simp] theorem State.taken_cfg : (s.taken).cfg = s.cfg := rfl
@[simp] theorem State.taken_bstate : (s.taken).bstate = s.bstate := rfl
@[simp] theorem State.taken_rffe : (s.taken).rffe = s.rffe := rfl
@[simp] theorem State.taken_fe : (s.taken).fe = s.fe := rfl
@[simp] theorem State.taken_port : (s.taken).port = s.port := rfl
@[simp] theorem State.taken_loFreq : (s.taken).loFreq = s.loFreq := rfl
@[simp] theorem State.taken_modEn : (s.taken).modEn = s.modEn := rfl
@[simp] theorem State.taken_syncHandle : (s.taken).syncHandle = s.syncHandle := rfl
@[simp] theorem State.taken_pending : (s.taken).pending = s.pending.tail := rfl
@[simp] theorem State.taken_response : (s.taken).response = s.response := rfl
@[simp] theorem State.taken_replies : (s.taken).replies = s.replies := rfl
@[simp] theorem State.taken_calls : (s.taken).calls = s.calls := rfl
@[simp] theorem State.taken_freeCount : (s.taken).freeCount = s.freeCount := rfl

@[simp] theorem streamTeardown_cfg (d : Dir) : (streamTeardown d s).cfg = s.cfg := rfl
@[simp] theorem streamTeardown_bstate (d : Dir) : (streamTeardown d s).bstate = s.bstate := rfl
@[simp] theorem streamTeardown_rffe (d : Dir) : (streamTeardown d s).rffe = s.rffe := rfl
@[simp] theorem streamTeardown_fe (d : Dir) : (streamTeardown d s).fe = s.fe := rfl
@[simp] theorem streamTeardown_port (d : Dir) : (streamTeardown d s).port = s.port := rfl
@[simp] theorem streamTeardown_loFreq (d : Dir) : (streamTeardown d s).loFreq = s.loFreq := rfl
@[simp] theorem streamTeardown_modEn (d : Dir) : (streamTeardown d s).modEn = s.modEn := rfl
@[simp] theorem streamTeardown_syncHandle (d : Dir) :
    (streamTeardown d s).syncHandle = s.syncHandle.set d false := rfl
@[simp] theorem streamTeardown_pending (d : Dir) : (streamTeardown d s).pending = s.pending := rfl
@[simp] theorem streamTeardown_response (d : Dir) :
    (streamTeardown d s).response = s.response := rfl
@[simp] theorem streamTeardown_replies (d : Dir) : (streamTeardown d s).replies = s.replies := rfl
@[simp] theorem streamTeardown_calls (d : Dir) :
    (streamTeardown d s).calls = s.calls ++ [.streamTeardown d] := rfl
@[simp] theorem streamTeardown_freeCount (d : Dir) :
    (streamTeardown d s).freeCount = s.freeCount := rfl

/-! Calls made move inside every other update, so that they gather next to the first state. -/

@[simp] theorem State.after_nil : s.after [] = s := by
  simp [State.after]
@[simp] theorem State.after_after (cs ds : List Call) : (s.after cs).after ds = s.after (cs ++ ds) := by
  simp [State.after]
@[simp] theorem State.setFe_after (a : RegAddr) (v : Byte) (cs : List Call) :
    (s.setFe a v).after cs = (s.after cs).setFe a v := rfl
@[simp] theorem State.withBstate_after (b : BoardState) (cs : List Call) :
    (s.withBstate b).after cs = (s.after cs).withBstate b := rfl
@[simp] theorem State.withRffe_after (v : Rffe) (cs : List Call) :
    (s.withRffe v).after cs = (s.after cs).withRffe v := rfl
@[simp] theorem State.withPort_after (d : Dir) (p : PortId) (cs : List Call) :
    (s.withPort d p).after cs = (s.after cs).withPort d p := rfl
@[simp] theorem State.withLo_after (d : Dir) (f : Freq) (cs : List Call) :
    (s.withLo d f).after cs = (s.after cs).withLo d f := rfl
@[simp] theorem State.withModEn_after (d : Dir) (e : Bool) (cs : List Call) :
    (s.withModEn d e).after cs = (s.after cs).withModEn d e := rfl
@[simp] theorem State.withHandle_after (d : Dir) (e : Bool) (cs : List Call) :
    (s.withHandle d e).after cs = (s.after cs).withHandle d e := rfl
@[simp] theorem State.usedFree_after (cs : List Call) :
    (s.usedFree).after cs = (s.after cs).usedFree := rfl
@[simp] theorem State.setFe_nextStatus (a : RegAddr) (v : Byte) : (s.setFe a v).nextStatus = s.nextStatus := rfl
@[simp] theorem State.withBstate_nextStatus (b : BoardState) : (s.withBstate b).nextStatus = s.nextStatus := rfl
@[simp] theorem State.withRffe_nextStatus (v : Rffe) : (s.withRffe v).nextStatus = s.nextStatus := rfl
@[simp] theorem State.withPort_nextStatus (d : Dir) (p : PortId) : (s.withPort d p).nextStatus = s.nextStatus := rfl
@[simp] theorem State.withLo_nextStatus (d : Dir) (f : Freq) : (s.withLo d f).nextStatus = s.nextStatus := rfl
@[simp] theorem State.withModEn_nextStatus (d : Dir) (e : Bool) : (s.withModEn d e).nextStatus = s.nextStatus := rfl
@[simp] theorem State.withHandle_nextStatus (d : Dir) (e : Bool) : (s.withHandle d e).nextStatus = s.nextStatus := rfl
@[simp] theorem State.usedFree_nextStatus : (s.usedFree).nextStatus = s.nextStatus := rfl
@[simp] theorem State.logged_nextStatus (c : Call) : (s.logged c).nextStatus = s.nextStatus := rfl
@[simp] theorem streamTeardown_nextStatus (d : Dir) :
    (streamTeardown d s).nextStatus = s.nextStatus := rfl

/-! The phases between two commands (`phyLoop`, `commandStart`) and the forward move of the board
state. -/

@[simp] theorem State.phyLoop_cfg : s.phyLoop.cfg = s.cfg := by
  unfold State.phyLoop; split <;> rfl
@[simp] theorem State.phyLoop_bstate : s.phyLoop.bstate = s.bstate := by
  unfold State.phyLoop; split <;> rfl
@[simp] theorem State.phyLoop_rffe : s.phyLoop.rffe = s.rffe := by
  unfold State.phyLoop; split <;> rfl
@[simp] theorem State.phyLoop_port : s.phyLoop.port = s.port := by
  unfold State.phyLoop; split <;> rfl
@[simp] theorem State.phyLoop_loFreq : s.phyLoop.loFreq = s.loFreq := by
  unfold State.phyLoop; split <;> rfl
@[simp] theorem State.phyLoop_modEn : s.phyLoop.modEn = s.modEn := by
  unfold State.phyLoop; split <;> rfl
@[simp] theorem State.phyLoop_syncHandle : s.phyLoop.syncHandle = s.syncHandle := by
  unfold State.phyLoop; split <;> rfl
@[simp] theorem State.phyLoop_pending : s.phyLoop.pending = s.pending := by
  unfold State.phyLoop; split <;> rfl
@[simp] theorem State.phyLoop_response : s.phyLoop.response = s.response := by
  unfold State.phyLoop; split <;> rfl
@[simp] theorem State.phyLoop_replies : s.phyLoop.replies = s.replies := by
  unfold State.phyLoop; split <;> rfl
@[simp] theorem State.phyLoop_calls : s.phyLoop.calls = s.calls := by
  unfold State.phyLoop; split <;> rfl

theorem State.phyLoop_fe : s.phyLoop.fe =
    feRefresh (2 ^ s.cfg.feAddrBits) (if s.bstate = .initialized then s.heldBits else fun _ => 0)
      s.freeCount s.fe := by
  unfold State.phyLoop; split <;> rfl

@[simp] theorem State.phyLoop_freeCount : s.phyLoop.freeCount = s.freeCount + 1 := by
  unfold State.phyLoop; split <;> rfl

@[simp] theorem State.commandStart_cfg : s.commandStart.cfg = s.cfg := by
  simp [State.commandStart]
@[simp] theorem State.commandStart_bstate : s.commandStart.bstate = s.bstate := by
  simp [State.commandStart]
@[simp] theorem State.commandStart_rffe : s.commandStart.rffe = s.rffe := by
  simp [State.commandStart]
@[simp] theorem State.commandStart_port : s.commandStart.port = s.port := by
  simp [State.commandStart]
@[simp] theorem State.commandStart_loFreq : s.commandStart.loFreq = s.loFreq := by
  simp [State.commandStart]
@[simp] theorem State.commandStart_modEn : s.commandStart.modEn = s.modEn := by
  simp [State.commandStart]
@[simp] theorem State.commandStart_syncHandle : s.commandStart.syncHandle = s.syncHandle := by
  simp [State.commandStart]
@[simp] theorem State.commandStart_response : s.commandStart.response = s.response := by
  simp [State.commandStart]
@[simp] theorem State.commandStart_replies : s.commandStart.replies = s.replies := by
  simp [State.commandStart]
@[simp] theorem State.commandStart_calls : s.commandStart.calls = s.calls := by
  simp [State.commandStart]
@[simp] theorem State.commandStart_pending : s.commandStart.pending = s.pending.tail := by
  simp [State.commandStart]
@[simp] theorem State.commandStart_freeCount : s.commandStart.freeCount = s.freeCount + 1 := by
  simp [State.commandStart]

theorem State.commandStart_fe : s.commandStart.fe =
    feRefresh (2 ^ s.cfg.feAddrBits) (if s.bstate = .initialized then s.heldBits else fun _ => 0)
      s.freeCount s.fe := by
  rw [State.commandStart, State.phyLoop_fe]; rfl

@[simp] theorem State.advanceTo_cfg (b : BoardState) : (s.advanceTo b).cfg = s.cfg := by
  unfold State.advanceTo; split <;> rfl
@[simp] theorem State.advanceTo_rffe (b : BoardState) : (s.advanceTo b).rffe = s.rffe := by
  unfold State.advanceTo; split <;> rfl
@[simp] theorem State.advanceTo_fe (b : BoardState) : (s.advanceTo b).fe = s.fe := by
  unfold State.advanceTo; split <;> rfl
@[simp] theorem State.advanceTo_port (b : BoardState) : (s.advanceTo b).port = s.port := by
  unfold State.advanceTo; split <;> rfl
@[simp] theorem State.advanceTo_loFreq (b : BoardState) : (s.advanceTo b).loFreq = s.loFreq := by
  unfold State.advanceTo; split <;> rfl
@[simp] theorem State.advanceTo_modEn (b : BoardState) : (s.advanceTo b).modEn = s.modEn := by
  unfold State.advanceTo; split <;> rfl
@[simp] theorem State.advanceTo_syncHandle (b : BoardState) : (s.advanceTo b).syncHandle = s.syncHandle := by
  unfold State.advanceTo; split <;> rfl
@[simp] theorem State.advanceTo_pending (b : BoardState) : (s.advanceTo b).pending = s.pending := by
  unfold State.advanceTo; split <;> rfl
@[simp] theorem State.advanceTo_response (b : BoardState) : (s.advanceTo b).response = s.response := by
  unfold State.advanceTo; split <;> rfl
@[simp] theorem State.advanceTo_replies (b : BoardState) : (s.advanceTo b).replies = s.replies := by
  unfold State.advanceTo; split <;> rfl
@[simp] theorem State.advanceTo_calls (b : BoardState) : (s.advanceTo b).calls = s.calls := by
  unfold State.advanceTo; split <;> rfl
@[simp] theorem State.advanceTo_freeCount (b : BoardState) : (s.advanceTo b).freeCount = s.freeCount := by
  unfold State.advanceTo; split <;> rfl

theorem State.advanceTo_bstate (b : BoardState) :
    (s.advanceTo b).bstate = if s.bstate.code < b.code then b else s.bstate := by
  unfold State.advanceTo; split <;> rfl

/-! The compound updates: constructing the front end, `CLOSE`, a write to an opaque register. -/

@[simp] theorem constructFrontEnd_cfg : (constructFrontEnd s).cfg = s.cfg := by
  simp [constructFrontEnd]
@[simp] theorem constructFrontEnd_bstate : (constructFrontEnd s).bstate = s.bstate := by
  simp [constructFrontEnd]
@[simp] theorem constructFrontEnd_rffe : (constructFrontEnd s).rffe = s.rffe := by
  simp [constructFrontEnd]
@[simp] theorem constructFrontEnd_modEn : (constructFrontEnd s).modEn = s.modEn := by
  simp [constructFrontEnd]
@[simp] theorem constructFrontEnd_syncHandle : (constructFrontEnd s).syncHandle = s.syncHandle := by
  simp [constructFrontEnd]
@[simp] theorem constructFrontEnd_pending : (constructFrontEnd s).pending = s.pending := by
  simp [constructFrontEnd]
@[simp] theorem constructFrontEnd_response : (constructFrontEnd s).response = s.response := by
  simp [constructFrontEnd]
@[simp] theorem constructFrontEnd_replies : (constructFrontEnd s).replies = s.replies := by
  simp [constructFrontEnd]
@[simp] theorem constructFrontEnd_calls : (constructFrontEnd s).calls = s.calls := by
  simp [constructFrontEnd]

@[simp] theorem State.freeCollaborators_cfg : s.freeCollaborators.cfg = s.cfg := by
  simp [State.freeCollaborators]
@[simp] theorem State.freeCollaborators_bstate : s.freeCollaborators.bstate = s.bstate := by
  simp [State.freeCollaborators]
@[simp] theorem State.freeCollaborators_syncHandle : s.freeCollaborators.syncHandle = s.syncHandle := by
  simp [State.freeCollaborators]
@[simp] theorem State.freeCollaborators_pending : s.freeCollaborators.pending = s.pending := by
  simp [State.freeCollaborators]
@[simp] theorem State.freeCollaborators_response : s.freeCollaborators.response = s.response := by
  simp [State.freeCollaborators]
@[simp] theorem State.freeCollaborators_replies : s.freeCollaborators.replies = s.replies := by
  simp [State.freeCollaborators]
@[simp] theorem State.freeCollaborators_calls : s.freeCollaborators.calls = s.calls := by
  simp [State.freeCollaborators]

@[simp] theorem State.opaqueWritten_cfg : s.opaqueWritten.cfg = s.cfg := by
  simp [State.opaqueWritten]
@[simp] theorem State.opaqueWritten_bstate : s.opaqueWritten.bstate = s.bstate := by
  simp [State.opaqueWritten]
@[simp] theorem State.opaqueWritten_rffe : s.opaqueWritten.rffe = s.rffe := by
  simp [State.opaqueWritten]
@[simp] theorem State.opaqueWritten_modEn : s.opaqueWritten.modEn = s.modEn := by
  simp [State.opaqueWritten]
@[simp] theorem State.opaqueWritten_syncHandle : s.opaqueWritten.syncHandle = s.syncHandle := by
  simp [State.opaqueWritten]
@[simp] theorem State.opaqueWritten_pending : s.opaqueWritten.pending = s.pending := by
  simp [State.opaqueWritten]
@[simp] theorem State.opaqueWritten_response : s.opaqueWritten.response = s.response := by
  simp [State.opaqueWritten]
@[simp] theorem State.opaqueWritten_replies : s.opaqueWritten.replies = s.replies := by
  simp [State.opaqueWritten]
@[simp] theorem State.opaqueWritten_calls : s.opaqueWritten.calls = s.calls := by
  simp [State.opaqueWritten]

@[simp] theorem constructFrontEnd_loFreq : (constructFrontEnd s).loFreq = s.cfg.loDefault := by
  simp [constructFrontEnd]
  rfl
theorem constructFrontEnd_fe : (constructFrontEnd s).fe =
    feRefresh (2 ^ s.cfg.feAddrBits) (fun _ => 0) s.freeCount s.fe := by
  simp [constructFrontEnd]
theorem State.opaqueWritten_fe : s.opaqueWritten.fe =
    feRefresh (2 ^ s.cfg.feAddrBits) s.heldWhole s.freeCount s.fe := by
  simp [State.opaqueWritten]
theorem State.freeCollaborators_fe : s.freeCollaborators.fe =
    feRefresh (2 ^ s.cfg.feAddrBits) (fun _ => 0) (s.freeCount + 1) s.fe := by
  simp [State.freeCollaborators]
theorem State.freeCollaborators_rffe : s.freeCollaborators.rffe =
    Config.freeRffe s.freeCount % 2 ^ s.cfg.rffeBits := by
  simp [State.freeCollaborators]
@[simp] theorem constructFrontEnd_after (cs : List Call) :
    (constructFrontEnd s).after cs = constructFrontEnd (s.after cs) := rfl
@[simp] theorem constructFrontEnd_nextStatus : (constructFrontEnd s).nextStatus = s.nextStatus := rfl

end Sys2Proof.Machine
end

