-- ==== Sys2Proof/Laws/Ops.lean ====
section
/-!
SUPPORT. What the shared operations can do: each primitive where it succeeds and where it fails, the
checks where they pass and where they refuse, and the ends of a command.
-/

namespace Sys2Proof

@[simp] theorem PerDir.get_set_self {α : Type} (t : PerDir α) (d : Dir) (v : α) :
    (t.set d v).get d = v := by
  cases d <;> rfl

theorem PerDir.get_set_ne {α : Type} (t : PerDir α) {d e : Dir} (v : α) (h : e ≠ d) :
    (t.set d v).get e = t.get e := by
  cases d <;> cases e <;> simp_all [PerDir.get, PerDir.set]

@[simp] theorem Chan.ofCode_code (c : Chan) : Chan.ofCode c.code = some c := by
  cases c <;> rfl

@[simp] theorem Kind.ofCode_code (k : Kind) : Kind.ofCode k.code = some k := by
  cases k <;> rfl

namespace Machine

variable {α β : Type} {s t : State}

@[simp] theorem Res.bind_done (a : α) (s : State) (k : α → State → Res β) :
    (Res.done a s).bind k = k a s := rfl

@[simp] theorem Res.bind_raised (e : Err) (s : State) (k : α → State → Res β) :
    (Res.raised e s).bind k = .raised e s := rfl

@[simp] theorem Res.bind_fault (f : Fault) (k : α → State → Res β) :
    (Res.fault f : Res α).bind k = .fault f := rfl

theorem Res.bind_eq_done {r : Res α} {k : α → State → Res β} {b : β} {t : State}
    (h : r.bind k = .done b t) : ∃ a u, r = .done a u ∧ k a u = .done b t := by
  cases r with
  | done a u => exact ⟨a, u, rfl, h⟩
  | raised e u => cases h
  | fault f => cases h

theorem Res.bind_eq_raised {r : Res α} {k : α → State → Res β} {e : Err} {t : State}
    (h : r.bind k = .raised e t) :
    r = .raised e t ∨ ∃ a u, r = .done a u ∧ k a u = .raised e t := by
  cases r with
  | done a u => exact .inr ⟨a, u, rfl, h⟩
  | raised e' u => exact .inl (by simpa using h)
  | fault f => cases h

@[simp] theorem answer_done (v : BitVec 64) (s : State) : answer (.done v s) = .next (s.respond 0 v) := rfl

@[simp] theorem answer_raised (e : Err) (s : State) : answer (.raised e s) = .next (s.fail e) := rfl

@[simp] theorem answer_fault (f : Fault) : answer (.fault f) = .fault f := rfl

/-- The two ways a command answers. -/
theorem answer_eq_next {r : Res (BitVec 64)} {t : State} (h : answer r = .next t) :
    (∃ v u, r = .done v u ∧ t = u.respond 0 v) ∨ (∃ e u, r = .raised e u ∧ t = u.fail e) := by
  cases r with
  | done v u => exact .inl ⟨v, u, rfl, by simpa using h.symm⟩
  | raised e u => exact .inr ⟨e, u, rfl, by simpa using h.symm⟩
  | fault f => cases h

/-! The checks. -/

theorem gate_refuses {min : BoardState} {k : State → Res α} (h : s.bstate.code < min.code) :
    gate min s k = .raised .notInit s := by
  simp [gate, h]

theorem gate_passes {min : BoardState} {k : State → Res α} (h : min.code ≤ s.bstate.code) :
    gate min s k = k s := by
  simp [gate, Nat.not_lt.mpr h]

theorem withChan_refuses {ch : BitVec 8} {k : Chan → State → Res α} (h : Chan.ofCode ch = none) :
    withChan ch s k = .raised .inval s := by
  simp [withChan, h]

theorem withChan_passes {ch : BitVec 8} {c : Chan} {k : Chan → State → Res α}
    (h : Chan.ofCode ch = some c) : withChan ch s k = k c s := by
  simp [withChan, h]

theorem withKind_refuses {kd : BitVec 8} {k : Kind → State → Res α} (h : Kind.ofCode kd = none) :
    withKind kd s k = .raised .inval s := by
  simp [withKind, h]

theorem withKind_passes {kd : BitVec 8} {c : Kind} {k : Kind → State → Res α}
    (h : Kind.ofCode kd = some c) : withKind kd s k = k c s := by
  simp [withKind, h]

@[simp] theorem require_true {e : Err} {k : State → Res α} : require true e s k = k s := rfl

@[simp] theorem require_false {e : Err} {k : State → Res α} : require false e s k = .raised e s := rfl

/-! Which calls succeed. -/

theorem State.nextStatus_eq : s.nextStatus = s.replies.headD 0 := rfl

/-- If the next `n` calls succeed, so does the next one after fewer than `n` of them. -/
theorem State.after_nextStatus_nonneg {n : Nat} (h : s.nextCallsSucceed n) (cs : List Call)
    (hc : cs.length < n) : 0 ≤ (s.after cs).nextStatus := by
  rw [State.nextStatus_eq, State.after_replies]
  cases hd : s.replies.drop cs.length with
  | nil => simp
  | cons r rs =>
    refine h r (List.mem_take_iff_getElem.mpr ⟨cs.length, ?_, ?_⟩)
    · have := congrArg List.length hd
      simp at this
      omega
    · have : (s.replies.drop cs.length)[0]'(by simp [hd]) = r := by simp [hd]
      simpa using this

theorem State.nextStatus_nonneg {n : Nat} (h : s.nextCallsSucceed n) (hn : 0 < n) :
    0 ≤ s.nextStatus := by
  simpa using State.after_nextStatus_nonneg h [] hn

/-- The status of the call after `cs` is the one the replies list there. -/
theorem State.after_nextStatus_of_getElem {cs : List Call} {q : Int}
    (h : s.replies[cs.length]? = some q) : (s.after cs).nextStatus = q := by
  simp [State.nextStatus_eq, List.headD_eq_head?_getD, List.head?_drop, h]

theorem State.nextCallsSucceed_after {m n : Nat} (h : s.nextCallsSucceed n) (cs : List Call)
    (hc : cs.length + m ≤ n) : (s.after cs).nextCallsSucceed m := by
  intro r hr
  rw [State.after_replies, List.take_drop] at hr
  exact h r (List.take_subset_take_left s.replies hc (List.mem_of_mem_drop hr))

theorem State.nextCallsSucceed_of_replies {n : Nat} {u : State} (hu : u.replies = s.replies)
    (h : s.nextCallsSucceed n) : u.nextCallsSucceed n := by
  intro r hr; exact h r (hu ▸ hr)

theorem State.nextCallsSucceed_le {m n : Nat} (hmn : m ≤ n) (h : s.nextCallsSucceed n) :
    s.nextCallsSucceed m :=
  fun r hr => h r (List.take_subset_take_left s.replies hmn hr)

/-! The primitives. -/

theorem callWith_succeeds {c : Call} {ok bad : State → State} (h : 0 ≤ s.nextStatus) :
    callWith c ok bad s = .done () (ok (s.after [c])) := by
  simp [callWith, Int.not_lt.mpr h]

theorem callWith_fails {c : Call} {ok bad : State → State} (h : s.nextStatus < 0) :
    callWith c ok bad s = .raised (s.cfg.translate s.nextStatus) (bad (s.after [c])) := by
  simp [callWith, h]

theorem callWith_eq_done {c : Call} {ok bad : State → State} {t : State}
    (h : callWith c ok bad s = .done () t) : 0 ≤ s.nextStatus ∧ t = ok (s.after [c]) := by
  unfold callWith at h
  split at h
  · cases h
  · exact ⟨by omega, by simpa using h.symm⟩

theorem callWith_eq_raised {c : Call} {ok bad : State → State} {t : State} {e : Err}
    (h : callWith c ok bad s = .raised e t) :
    s.nextStatus < 0 ∧ e = s.cfg.translate s.nextStatus ∧ t = bad (s.after [c]) := by
  unfold callWith at h
  split at h
  · simp at h; exact ⟨by assumption, h.1.symm, h.2.symm⟩
  · cases h

theorem callRead_eq (c : Call) (s : State) : callRead c s = callWith c id id s := rfl

theorem spiRead_succeeds {a : RegAddr} (ha : s.cfg.feHas a = true) (h : 0 ≤ s.nextStatus) :
    spiRead a s = .done (s.feAt a) (s.after [.spiRead a]) := by
  simp [spiRead, ha, callRead, callWith_succeeds h, State.feAt]

theorem spiRead_fails {a : RegAddr} (ha : s.cfg.feHas a = true) (h : s.nextStatus < 0) :
    spiRead a s = .raised (s.cfg.translate s.nextStatus) (s.after [.spiRead a]) := by
  simp [spiRead, ha, callRead, callWith_fails h]

theorem spiRead_eq_done {a : RegAddr} {x : Byte} {t : State} (h : spiRead a s = .done x t) :
    s.cfg.feHas a = true ∧ 0 ≤ s.nextStatus ∧ x = (s.feAt a) ∧ t = s.after [.spiRead a] := by
  unfold spiRead at h
  split at h
  · obtain ⟨⟨⟩, u, hu, h⟩ := Res.bind_eq_done h
    obtain ⟨h0, rfl⟩ := callWith_eq_done hu
    simp at h
    exact ⟨by assumption, h0, h.1.symm, h.2.symm⟩
  · cases h

theorem spiRead_eq_raised {a : RegAddr} {e : Err} {t : State}
    (h : spiRead a s = .raised e t) :
    s.cfg.feHas a = true ∧ s.nextStatus < 0 ∧ e = s.cfg.translate s.nextStatus ∧ t = s.after [.spiRead a] := by
  unfold spiRead at h
  split at h
  · rcases Res.bind_eq_raised h with h | ⟨⟨⟩, u, hu, h⟩
    · exact ⟨by assumption, callWith_eq_raised h⟩
    · cases h
  · cases h

theorem spiWrite_succeeds {a : RegAddr} {v : Byte} (ha : s.cfg.feHas a = true) (h : 0 ≤ s.nextStatus) :
    spiWrite a v s = .done () ((s.after [.spiWrite a v]).setFe a v) := by
  simp [spiWrite, ha, callWith_succeeds h]

theorem spiWrite_fails {a : RegAddr} {v : Byte} (ha : s.cfg.feHas a = true) (h : s.nextStatus < 0) :
    spiWrite a v s = .raised (s.cfg.translate s.nextStatus) ((s.after [.spiWrite a v]).freeFe a) := by
  simp [spiWrite, ha, callWith_fails h]

theorem spiWrite_eq_done {a : RegAddr} {v : Byte} {t : State} (h : spiWrite a v s = .done () t) :
    s.cfg.feHas a = true ∧ 0 ≤ s.nextStatus ∧ t = (s.after [.spiWrite a v]).setFe a v := by
  unfold spiWrite at h
  split at h
  · exact ⟨by assumption, callWith_eq_done h⟩
  · cases h

theorem spiWrite_eq_raised {a : RegAddr} {v : Byte} {e : Err} {t : State}
    (h : spiWrite a v s = .raised e t) :
    s.cfg.feHas a = true ∧ s.nextStatus < 0 ∧ e = s.cfg.translate s.nextStatus ∧ t = (s.after [.spiWrite a v]).freeFe a := by
  unfold spiWrite at h
  split at h
  · exact ⟨by assumption, callWith_eq_raised h⟩
  · cases h

theorem rffeRead_succeeds (h : 0 ≤ s.nextStatus) :
    rffeRead s = .done s.rffe (s.after [.rffeRead]) := by
  simp [rffeRead, callRead, callWith_succeeds h]

theorem rffeRead_fails (h : s.nextStatus < 0) :
    rffeRead s = .raised (s.cfg.translate s.nextStatus) (s.after [.rffeRead]) := by
  simp [rffeRead, callRead, callWith_fails h]

theorem rffeRead_eq_done {x : Rffe} {t : State} (h : rffeRead s = .done x t) :
    0 ≤ s.nextStatus ∧ x = s.rffe ∧ t = s.after [.rffeRead] := by
  unfold rffeRead at h
  obtain ⟨⟨⟩, u, hu, h⟩ := Res.bind_eq_done h
  obtain ⟨h0, rfl⟩ := callWith_eq_done hu
  simp at h
  exact ⟨h0, h.1.symm, h.2.symm⟩

theorem rffeRead_eq_raised {e : Err} {t : State}
    (h : rffeRead s = .raised e t) :
    s.nextStatus < 0 ∧ e = s.cfg.translate s.nextStatus ∧ t = s.after [.rffeRead] := by
  rcases Res.bind_eq_raised h with h | ⟨⟨⟩, u, hu, h⟩
  · exact callWith_eq_raised h
  · cases h

theorem rffeWrite_succeeds {v : Rffe} (h : 0 ≤ s.nextStatus) :
    rffeWrite v s = .done () ((s.after [.rffeWrite v]).withRffe v) := by
  simp [rffeWrite, callWith_succeeds h]

theorem rffeWrite_fails {v : Rffe} (h : s.nextStatus < 0) :
    rffeWrite v s = .raised (s.cfg.translate s.nextStatus) ((s.after [.rffeWrite v]).freeRffe) := by
  simp [rffeWrite, callWith_fails h]

theorem rffeWrite_eq_done {v : Rffe} {t : State} (h : rffeWrite v s = .done () t) :
    0 ≤ s.nextStatus ∧ t = (s.after [.rffeWrite v]).withRffe v := by
  exact callWith_eq_done h

theorem rffeWrite_eq_raised {v : Rffe} {e : Err} {t : State}
    (h : rffeWrite v s = .raised e t) :
    s.nextStatus < 0 ∧ e = s.cfg.translate s.nextStatus ∧ t = (s.after [.rffeWrite v]).freeRffe := by
  exact callWith_eq_raised h

theorem phyGetPort_succeeds {d : Dir} (h : 0 ≤ s.nextStatus) :
    phyGetPort d s = .done (s.port.get d) (s.after [.phyGetPort d]) := by
  simp [phyGetPort, callRead, callWith_succeeds h]

theorem phyGetPort_fails {d : Dir} (h : s.nextStatus < 0) :
    phyGetPort d s = .raised (s.cfg.translate s.nextStatus) (s.after [.phyGetPort d]) := by
  simp [phyGetPort, callRead, callWith_fails h]

theorem phyGetPort_eq_done {d : Dir} {x : PortId} {t : State} (h : phyGetPort d s = .done x t) :
    0 ≤ s.nextStatus ∧ x = (s.port.get d) ∧ t = s.after [.phyGetPort d] := by
  unfold phyGetPort at h
  obtain ⟨⟨⟩, u, hu, h⟩ := Res.bind_eq_done h
  obtain ⟨h0, rfl⟩ := callWith_eq_done hu
  simp at h
  exact ⟨h0, h.1.symm, h.2.symm⟩

theorem phyGetPort_eq_raised {d : Dir} {e : Err} {t : State}
    (h : phyGetPort d s = .raised e t) :
    s.nextStatus < 0 ∧ e = s.cfg.translate s.nextStatus ∧ t = s.after [.phyGetPort d] := by
  rcases Res.bind_eq_raised h with h | ⟨⟨⟩, u, hu, h⟩
  · exact callWith_eq_raised h
  · cases h

theorem phySetPort_succeeds {d : Dir} {p : PortId} (h : 0 ≤ s.nextStatus) :
    phySetPort d p s = .done () ((s.after [.phySetPort d p]).withPort d p) := by
  simp [phySetPort, callWith_succeeds h]

theorem phySetPort_fails {d : Dir} {p : PortId} (h : s.nextStatus < 0) :
    phySetPort d p s = .raised (s.cfg.translate s.nextStatus) ((s.after [.phySetPort d p]).freePort d) := by
  simp [phySetPort, callWith_fails h]

theorem phySetPort_eq_done {d : Dir} {p : PortId} {t : State} (h : phySetPort d p s = .done () t) :
    0 ≤ s.nextStatus ∧ t = (s.after [.phySetPort d p]).withPort d p := by
  exact callWith_eq_done h

theorem phySetPort_eq_raised {d : Dir} {p : PortId} {e : Err} {t : State}
    (h : phySetPort d p s = .raised e t) :
    s.nextStatus < 0 ∧ e = s.cfg.translate s.nextStatus ∧ t = (s.after [.phySetPort d p]).freePort d := by
  exact callWith_eq_raised h

theorem phyGetLo_succeeds {d : Dir} (h : 0 ≤ s.nextStatus) :
    phyGetLo d s = .done (s.loFreq.get d) (s.after [.phyGetLo d]) := by
  simp [phyGetLo, callRead, callWith_succeeds h]

theorem phyGetLo_fails {d : Dir} (h : s.nextStatus < 0) :
    phyGetLo d s = .raised (s.cfg.translate s.nextStatus) (s.after [.phyGetLo d]) := by
  simp [phyGetLo, callRead, callWith_fails h]

theorem phyGetLo_eq_done {d : Dir} {x : Freq} {t : State} (h : phyGetLo d s = .done x t) :
    0 ≤ s.nextStatus ∧ x = (s.loFreq.get d) ∧ t = s.after [.phyGetLo d] := by
  unfold phyGetLo at h
  obtain ⟨⟨⟩, u, hu, h⟩ := Res.bind_eq_done h
  obtain ⟨h0, rfl⟩ := callWith_eq_done hu
  simp at h
  exact ⟨h0, h.1.symm, h.2.symm⟩

theorem phyGetLo_eq_raised {d : Dir} {e : Err} {t : State}
    (h : phyGetLo d s = .raised e t) :
    s.nextStatus < 0 ∧ e = s.cfg.translate s.nextStatus ∧ t = s.after [.phyGetLo d] := by
  rcases Res.bind_eq_raised h with h | ⟨⟨⟩, u, hu, h⟩
  · exact callWith_eq_raised h
  · cases h

theorem phySetLo_succeeds {d : Dir} {f : Freq} (h : 0 ≤ s.nextStatus) :
    phySetLo d f s = .done () ((s.after [.phySetLo d f]).withLo d f) := by
  simp [phySetLo, callWith_succeeds h]

theorem phySetLo_fails {d : Dir} {f : Freq} (h : s.nextStatus < 0) :
    phySetLo d f s = .raised (s.cfg.translate s.nextStatus) ((s.after [.phySetLo d f]).freeLo d) := by
  simp [phySetLo, callWith_fails h]

theorem phySetLo_eq_done {d : Dir} {f : Freq} {t : State} (h : phySetLo d f s = .done () t) :
    0 ≤ s.nextStatus ∧ t = (s.after [.phySetLo d f]).withLo d f := by
  exact callWith_eq_done h

theorem phySetLo_eq_raised {d : Dir} {f : Freq} {e : Err} {t : State}
    (h : phySetLo d f s = .raised e t) :
    s.nextStatus < 0 ∧ e = s.cfg.translate s.nextStatus ∧ t = (s.after [.phySetLo d f]).freeLo d := by
  exact callWith_eq_raised h

theorem backendEnable_succeeds {d : Dir} {b : Bool} (h : 0 ≤ s.nextStatus) :
    backendEnable d b s = .done () ((s.after [.backendEnable d b]).withModEn d b) := by
  simp [backendEnable, callWith_succeeds h]

theorem backendEnable_fails {d : Dir} {b : Bool} (h : s.nextStatus < 0) :
    backendEnable d b s = .raised (s.cfg.translate s.nextStatus) ((s.after [.backendEnable d b]).freeModEn d) := by
  simp [backendEnable, callWith_fails h]

theorem backendEnable_eq_done {d : Dir} {b : Bool} {t : State} (h : backendEnable d b s = .done () t) :
    0 ≤ s.nextStatus ∧ t = (s.after [.backendEnable d b]).withModEn d b := by
  exact callWith_eq_done h

theorem backendEnable_eq_raised {d : Dir} {b : Bool} {e : Err} {t : State}
    (h : backendEnable d b s = .raised e t) :
    s.nextStatus < 0 ∧ e = s.cfg.translate s.nextStatus ∧ t = (s.after [.backendEnable d b]).freeModEn d := by
  exact callWith_eq_raised h

/-! What holds of every state a part of a command can leave, done or raised. -/

/-- Whether the part is done or has raised an error, the state it leaves has `P`. -/
def Res.leaves (P : State → Prop) : Res α → Prop
  | .done _ t => P t
  | .raised _ t => P t
  | .fault _ => True

@[simp] theorem Res.leaves_done {P : State → Prop} {a : α} : (Res.done a s).leaves P ↔ P s := .rfl

@[simp] theorem Res.leaves_raised {P : State → Prop} {e : Err} :
    (Res.raised e s : Res α).leaves P ↔ P s := .rfl

@[simp] theorem Res.leaves_fault {P : State → Prop} {f : Fault} :
    (Res.fault f : Res α).leaves P ↔ True := .rfl

theorem Res.leaves_bind {P : State → Prop} {r : Res α} {k : α → State → Res β}
    (hr : r.leaves P) (hk : ∀ a t, r = .done a t → P t → (k a t).leaves P) :
    (r.bind k).leaves P := by
  cases r with
  | done a t => exact hk a t rfl hr
  | raised e t => exact hr
  | fault f => trivial

theorem gate_leaves {P : State → Prop} {min : BoardState} {k : State → Res α} (hs : P s)
    (hk : (k s).leaves P) : (gate min s k).leaves P := by
  unfold gate; split
  · exact hs
  · exact hk

theorem withChan_leaves {P : State → Prop} {ch : BitVec 8} {k : Chan → State → Res α} (hs : P s)
    (hk : ∀ c, Chan.ofCode ch = some c → (k c s).leaves P) : (withChan ch s k).leaves P := by
  unfold withChan; split
  · exact hk _ (by assumption)
  · exact hs

theorem withKind_leaves {P : State → Prop} {kd : BitVec 8} {k : Kind → State → Res α} (hs : P s)
    (hk : ∀ c, Kind.ofCode kd = some c → (k c s).leaves P) : (withKind kd s k).leaves P := by
  unfold withKind; split
  · exact hk _ (by assumption)
  · exact hs

theorem require_leaves {P : State → Prop} {ok : Bool} {e : Err} {k : State → Res α} (hs : P s)
    (hk : ok = true → (k s).leaves P) : (require ok e s k).leaves P := by
  unfold require; split
  · exact hk (by assumption)
  · exact hs

theorem answer_leaves {P : State → Prop} {r : Res (BitVec 64)} {t : State} (hr : r.leaves P)
    (h : answer r = .next t) : ∃ u status result, P u ∧ t = u.respond status result := by
  rcases answer_eq_next h with ⟨v, u, rfl, rfl⟩ | ⟨e, u, rfl, rfl⟩
  · exact ⟨u, 0, v, hr, rfl⟩
  · exact ⟨u, _, _, hr, rfl⟩

theorem callWith_leaves {P : State → Prop} {c : Call} {ok bad : State → State}
    (hok : P (ok (s.after [c]))) (hbad : P (bad (s.after [c]))) : (callWith c ok bad s).leaves P := by
  unfold callWith; split
  · exact hbad
  · exact hok

theorem spiRead_leaves {P : State → Prop} {a : RegAddr} (h : P (s.after [.spiRead a])) :
    (spiRead a s).leaves P := by
  unfold spiRead; split
  · exact Res.leaves_bind (callWith_leaves h h) fun _ _ _ ht => ht
  · trivial

theorem spiWrite_leaves {P : State → Prop} {a : RegAddr} {v : Byte}
    (hok : s.cfg.feHas a = true → P ((s.after [.spiWrite a v]).setFe a v))
    (hbad : s.cfg.feHas a = true → P ((s.after [.spiWrite a v]).freeFe a)) :
    (spiWrite a v s).leaves P := by
  unfold spiWrite; split
  · rename_i ha; exact callWith_leaves (hok ha) (hbad ha)
  · trivial

theorem rffeRead_leaves {P : State → Prop} (h : P (s.after [.rffeRead])) : (rffeRead s).leaves P :=
  Res.leaves_bind (callWith_leaves h h) fun _ _ _ ht => ht

theorem phyGetPort_leaves {P : State → Prop} {d : Dir} (h : P (s.after [.phyGetPort d])) :
    (phyGetPort d s).leaves P :=
  Res.leaves_bind (callWith_leaves h h) fun _ _ _ ht => ht

theorem phyGetLo_leaves {P : State → Prop} {d : Dir} (h : P (s.after [.phyGetLo d])) :
    (phyGetLo d s).leaves P :=
  Res.leaves_bind (callWith_leaves h h) fun _ _ _ ht => ht

end Machine

end Sys2Proof
end

