-- ==== Sys2Proof/Laws/PerInstr.lean ====
section
/-!
SUPPORT. The family OpByte: the `op` field of an encoded command is its opcode (30_encoding rule
R84), one lemma per command.
-/

namespace Sys2Proof.Laws.OpByte

/-- The opcode map (30_encoding rule R84). -/
def opcode : Instr → BitVec 8
  | .fwDetected => 0x01
  | .fpgaLoaded => 0x02
  | .init => 0x03
  | .close => 0x04
  | .selectBand _ _ => 0x10
  | .setFrequency _ _ => 0x11
  | .setRfPort _ _ => 0x12
  | .getRfPort _ => 0x13
  | .getCorrection _ _ => 0x20
  | .setCorrection _ _ _ => 0x21
  | .enableModule _ => 0x30
  | .disableModule _ => 0x31
  | .syncConfig _ => 0x32
  | .regRead _ => 0x40
  | .regWrite _ _ => 0x41

def Statement (i : Instr) : Prop :=
  (encode i).op = opcode i

theorem op_assembleCw (op ch kind : BitVec 8) (a : BitVec 64) :
    (Command.mk (assembleCw op ch kind) a).op = op := by
  apply BitVec.eq_of_getLsbD_eq
  intro i hi
  simp only [Command.op, assembleCw, BitVec.getLsbD_extractLsb', BitVec.getLsbD_append, hi]
  simp [show ¬ (24 + i < 8) by omega, show ¬ (24 + i - 8 < 8) by omega,
    show ¬ (24 + i - 8 - 8 < 8) by omega, show 24 + i - 8 - 8 - 8 = i by omega]

theorem fwDetected : Statement .fwDetected := op_assembleCw _ _ _ _
theorem fpgaLoaded : Statement .fpgaLoaded := op_assembleCw _ _ _ _
theorem init : Statement .init := op_assembleCw _ _ _ _
theorem close : Statement .close := op_assembleCw _ _ _ _
theorem selectBand (ch : BitVec 8) (freq : Freq) : Statement (.selectBand ch freq) :=
  op_assembleCw _ _ _ _
theorem setFrequency (ch : BitVec 8) (freq : Freq) : Statement (.setFrequency ch freq) :=
  op_assembleCw _ _ _ _
theorem setRfPort (ch : BitVec 8) (portid : PortId) : Statement (.setRfPort ch portid) :=
  op_assembleCw _ _ _ _
theorem getRfPort (ch : BitVec 8) : Statement (.getRfPort ch) := op_assembleCw _ _ _ _
theorem getCorrection (ch kind : BitVec 8) : Statement (.getCorrection ch kind) :=
  op_assembleCw _ _ _ _
theorem setCorrection (ch kind : BitVec 8) (value : BitVec 16) :
    Statement (.setCorrection ch kind value) :=
  op_assembleCw _ _ _ _
theorem enableModule (ch : BitVec 8) : Statement (.enableModule ch) := op_assembleCw _ _ _ _
theorem disableModule (ch : BitVec 8) : Statement (.disableModule ch) := op_assembleCw _ _ _ _
theorem syncConfig (ch : BitVec 8) : Statement (.syncConfig ch) := op_assembleCw _ _ _ _
theorem regRead (addr : RegAddr) : Statement (.regRead addr) := op_assembleCw _ _ _ _
theorem regWrite (addr : RegAddr) (data : Byte) : Statement (.regWrite addr data) :=
  op_assembleCw _ _ _ _

end Sys2Proof.Laws.OpByte
end

