-- ==== Sys2Proof/Machine/Assembly.lean ====
section
/-!
DEFINITION. The assembler syntax of 30_encoding rule R88: a mnemonic and its operands, read as text.
No command depends on it.
-/

namespace Sys2Proof.Machine

/-- The value of a digit. -/
def digitOf (c : Char) : Nat :=
  if '0' ≤ c ∧ c ≤ '9' then c.toNat - '0'.toNat
  else if 'a' ≤ c ∧ c ≤ 'f' then c.toNat - 'a'.toNat + 10
  else if 'A' ≤ c ∧ c ≤ 'F' then c.toNat - 'A'.toNat + 10
  else 255

/-- The number the digits of a base write, after those already read. -/
def readDigits (base : Nat) : List Char → Nat → Option Nat
  | [], n => some n
  | c :: cs, n => if digitOf c < base then readDigits base cs (n * base + digitOf c) else none

/-- A number in decimal or `0x` hexadecimal (R88). -/
def readNumber : List Char → Option Nat
  | [] => none
  | '0' :: 'x' :: c :: cs => readDigits 16 (c :: cs) 0
  | c :: cs => readDigits 10 (c :: cs) 0

/-- A number that fits `w` bits. -/
def readWord (w : Nat) (t : String) : Option (BitVec w) :=
  match readNumber t.toList with
  | some n => if n < 2 ^ w then some (BitVec.ofNat w n) else none
  | none => none

/-- A correction value: a number that may carry a sign (R88). With a sign it fits an `i16`. Without
one it is any sixteen-bit pattern, so 32768 to 65535 stand for the negative values of those patterns;
R88 does not say whether such a number is refused. DESIGN CHOICE (log 28). -/
def readValue (t : String) : Option (BitVec 16) :=
  match t.toList with
  | '-' :: cs =>
    match readNumber cs with
    | some n => if n ≤ 2 ^ 15 then some (BitVec.ofInt 16 (-(n : Int))) else none
    | none => none
  | '+' :: cs =>
    match readNumber cs with
    | some n => if n < 2 ^ 15 then some (BitVec.ofNat 16 n) else none
    | none => none
  | _ => readWord 16 t

/-- A channel by name or number; `RX0` is the one alias (R88, 90_conflicts C1). -/
def readChan (t : String) : Option (BitVec 8) :=
  if t = "RX1" ∨ t = "RX0" then some Chan.rx1.code
  else if t = "TX1" then some Chan.tx1.code
  else if t = "RX2" then some Chan.rx2.code
  else if t = "TX2" then some Chan.tx2.code
  else readWord 8 t

/-- A correction kind by name or number (R88). -/
def readKind (t : String) : Option (BitVec 8) :=
  if t = "DC_I" then some Kind.dcI.code
  else if t = "DC_Q" then some Kind.dcQ.code
  else if t = "PHASE" then some Kind.phase.code
  else if t = "GAIN" then some Kind.gain.code
  else readWord 8 t

/-- A port id by the names of 00_scope rule R9 or by number (R88). -/
def readPort (c : Cfg) (t : String) : Option PortId :=
  if t = "A_BALANCED" then some c.rxPorts.aBalanced
  else if t = "B_BALANCED" then some c.rxPorts.bBalanced
  else if t = "C_BALANCED" then some c.rxPorts.cBalanced
  else if t = "TXA" then some c.txPorts.txa
  else if t = "TXB" then some c.txPorts.txb
  else readWord 32 t

/-- A line of assembler: the mnemonic and its operands in the order channel, kind, then the `ARG`
operand (R88). -/
def assemble (c : Cfg) (mnemonic : String) (operands : List String) : Option Instr :=
  match operands with
  | [] =>
    if mnemonic = "FW_DETECTED" then some .fwDetected
    else if mnemonic = "FPGA_LOADED" then some .fpgaLoaded
    else if mnemonic = "INIT" then some .init
    else if mnemonic = "CLOSE" then some .close
    else none
  | [x] =>
    if mnemonic = "GET_RF_PORT" then (readChan x).map .getRfPort
    else if mnemonic = "ENABLE_MODULE" then (readChan x).map .enableModule
    else if mnemonic = "DISABLE_MODULE" then (readChan x).map .disableModule
    else if mnemonic = "SYNC_CONFIG" then (readChan x).map .syncConfig
    else if mnemonic = "REG_READ" then (readWord 16 x).map .regRead
    else none
  | [x, y] =>
    if mnemonic = "SELECT_BAND" then
      (readChan x).bind fun ch => (readWord 64 y).map (.selectBand ch)
    else if mnemonic = "SET_FREQUENCY" then
      (readChan x).bind fun ch => (readWord 64 y).map (.setFrequency ch)
    else if mnemonic = "SET_RF_PORT" then
      (readChan x).bind fun ch => (readPort c y).map (.setRfPort ch)
    else if mnemonic = "GET_CORRECTION" then
      (readChan x).bind fun ch => (readKind y).map (.getCorrection ch)
    else if mnemonic = "REG_WRITE" then
      (readWord 16 x).bind fun a => (readWord 8 y).map (.regWrite a)
    else none
  | [x, y, z] =>
    if mnemonic = "SET_CORRECTION" then
      (readChan x).bind fun ch => (readKind y).bind fun k => (readValue z).map (.setCorrection ch k)
    else none
  | _ => none

/-- The front end's transaction word for one register, as rule R89 gives it: bit 15 is 1 for a write,
bits 14:12 are the register count minus one, so 0, and bits 9:0 are the address. PRESUMED, and formed
below the primitives: no command can observe it. -/
def transactionWord (write : Bool) (a : RegAddr) : BitVec 16 :=
  setBit 15 (a &&& 0x03FF) write

end Sys2Proof.Machine
end

