-- ==== Sys2Proof/Tests/Slice0.lean ====
section
/-!
SUPPORT. The model's own tests. Expected results are those of spec/95_test_vectors.md (the row is
named beside each test) or of the rule named.
-/

namespace Sys2Proof.Tests

open Sys2Proof.Machine

/-! Helpers. -/

/-- An initialized board of the reference `Cfg`, no register listed. -/
def up : State := { State.reset with bstate := .initialized }

/-- The state of a next outcome; the reset state for any other. -/
def after (o : Host.Outcome State Fault Refusal) : State :=
  match o with
  | .next s => s
  | .fault _ => State.reset
  | .refused _ => State.reset

def io : Int := -5
def timeout : Int := -110
def nodev : Int := -19

def ok (v : BitVec 64) : Option Response := some ⟨0, v⟩
def err (e : Err) : Option Response := some ⟨Cfg.reference.errCode e, 0⟩

/-! Well-formedness: an ill-formed term for each check. -/

theorem test_wellFormed_refuses_channel_4 : (Instr.getRfPort 4).wellFormed = false := by decide
theorem test_wellFormed_refuses_kind_4 : (Instr.getCorrection 0 4).wellFormed = false := by decide
theorem test_wellFormed_accepts_channel_3_kind_3 : (Instr.setCorrection 3 3 0).wellFormed = true := by
  decide

/-! Decoding: words written out from R81 and R84 (vectors X1 to X22). -/

def dec (cw : BitVec 32) (arg : BitVec 64) : Option Instr :=
  match decode ⟨cw, arg⟩ with
  | .ok i => some i
  | .error _ => none

theorem test_decode_fwDetected : dec 0x01000000 0 = some .fwDetected := by decide
theorem test_decode_fpgaLoaded : dec 0x02000000 0 = some .fpgaLoaded := by decide
theorem test_decode_init : dec 0x03000000 0 = some .init := by decide
theorem test_decode_init_ignores_fields : dec 0x0312AB00 7 = some .init := by decide
theorem test_decode_close : dec 0x04000000 0 = some .close := by decide
theorem test_decode_selectBand :
    dec 0x10000000 0x000000000BEBC200 = some (.selectBand 0 200000000) := by decide
theorem test_decode_setFrequency :
    dec 0x11010000 0x0000000165A0BC01 = some (.setFrequency 1 6000000001) := by decide
theorem test_decode_setRfPort : dec 0x12000000 3 = some (.setRfPort 0 3) := by decide
theorem test_decode_getRfPort : dec 0x13020000 0 = some (.getRfPort 2) := by decide
theorem test_decode_getCorrection : dec 0x20010000 0 = some (.getCorrection 1 0) := by decide
theorem test_decode_setCorrection_ignores_rsv_and_high_arg :
    dec 0x210100FF 0xFFFFFFFFFFFF0064 = some (.setCorrection 1 0 100) := by decide
theorem test_decode_setCorrection_negative :
    dec 0x21030300 0x000000000000E000 = some (.setCorrection 3 3 (BitVec.ofInt 16 (-8192))) := by decide
theorem test_decode_enableModule : dec 0x30010000 0 = some (.enableModule 1) := by decide
theorem test_decode_disableModule : dec 0x31C80000 0 = some (.disableModule 200) := by decide
theorem test_decode_syncConfig : dec 0x32000000 0 = some (.syncConfig 0) := by decide
theorem test_decode_regRead : dec 0x40000000 0x9F = some (.regRead 0x9F) := by decide
theorem test_decode_regWrite : dec 0x41000000 0x40182 = some (.regWrite 0x182 0x04) := by decide
theorem test_decode_refuses_unknown_op : decode ⟨0x7F000000, 0⟩ = .error (.unknownOp 0x7F) := by decide
theorem test_decodeTableWord : decodeTableWord 32 0x21000000 = some (.setCorrection 0 0 0) := by decide
theorem test_encode_regWrite : encode (.regWrite 0x182 0x04) = ⟨0x41000000, 0x40182⟩ := by decide
theorem test_encode_setCorrection :
    encode (.setCorrection 2 1 (BitVec.ofInt 16 (-8))) = ⟨0x21020100, 0xFFF8⟩ := by decide

/-! Codes (R13). -/

theorem test_codes :
    (Dir.rx.code, Dir.tx.code) = (0, 1) ∧ (Band.shutdown.code, Band.low.code, Band.high.code) = (0, 1, 2)
      ∧ (Iq.i.code, Iq.q.code) = (0, 1) ∧ Kind.all.map Kind.iq? = [some .i, some .q, none, none] := by
  decide
theorem test_dir_and_sub_are_the_bits_of_the_channel :
    ∀ c ∈ Chan.all, c.dir.code = c.code.toNat % 2 ∧ c.sub = c.code.toNat / 2 := by decide

/-! Assembly (R88). -/

theorem test_assemble_rx0_is_rx1 :
    assemble Cfg.reference "SET_CORRECTION" ["RX0", "DC_Q", "-8"]
      = some (.setCorrection 0 1 (BitVec.ofInt 16 (-8))) := by decide
theorem test_assemble_hexadecimal :
    assemble Cfg.reference "REG_WRITE" ["0x182", "0x04"] = some (.regWrite 0x182 4) := by decide
theorem test_assemble_unsigned_pattern :
    readValue "65535" = some 0xFFFF ∧ readValue "+32768" = none ∧ readValue "65536" = none := by decide
theorem test_transactionWord : transactionWord true 0x182 = 0x8182 := by decide

/-! The configuration: the reference values are legal, and an ill-formed one for each check is not. -/

theorem test_reference_legal : Cfg.reference.legal = true := by decide
theorem test_alternative_legal : Cfg.alternative.legal = true := by decide
theorem test_legal_refuses_address_width_16 :
    { Cfg.reference with feAddrBits := 16 }.addrBitsLegal = false := by decide
theorem test_legal_refuses_shared_enable_bit :
    { Cfg.reference with enBit := ⟨1, 1⟩ }.rffeFieldsLegal = false := by decide
theorem test_legal_refuses_wide_antenna_code :
    { Cfg.reference with antCode := ⟨⟨0, 0xA, 0x5⟩, ⟨0, 0xA, 0x10⟩⟩ }.antCodesLegal = false := by decide
theorem test_legal_refuses_enabled_init : { Cfg.reference with rffeInit := 2 }.rffeInitLegal = false := by
  decide
theorem test_legal_refuses_boundary_200M :
    { Cfg.reference with fBoundary := 200000000 }.bandsLegal = false := by decide
/-- F_BAND_MAX with a table it does not belong to. -/
theorem test_legal_refuses_foreign_band_table :
    { Cfg.reference with fBandMax := 5999999999 }.bandsLegal = false := by decide

/-- The `Cfg` of vector E8. -/
def lowTop : Cfg :=
  { Cfg.reference with
    fBandMax := 5999999999
    bandTable := ⟨bandTableOf 3000000000 5999999999, bandTableOf 3000000000 5999999999⟩ }

theorem test_legal_accepts_lower_band_top : lowTop.legal = true := by decide
theorem test_legal_accepts_wide_rffe :
    { Cfg.reference with rffeBits := 100, antLsb := ⟨6, 96⟩ }.legal = true := by decide
theorem test_legal_refuses_default_out_of_range :
    { Cfg.reference with loDefault := ⟨69999999, 2400000000⟩ }.freqLegal = false := by decide
theorem test_legal_refuses_unclassified_band_port :
    { Cfg.reference with portOfBand := ⟨⟨0, 5, 0⟩, ⟨0, 1, 0⟩⟩ }.portsLegal = false := by decide
theorem test_legal_refuses_shift_4 :
    Cfg.reference.slotLegal (.single ⟨⟨0x170, 0x171⟩, 4⟩) = false := by decide
theorem test_legal_refuses_layout_of_11_bits : (Layout.mk 0 8 0 3).legal = false := by decide
theorem test_legal_refuses_force_register_outside :
    { Cfg.reference with forceReg := ⟨0x400, 0x09F, 0x182, 0x09F⟩ }.forceLegal = false := by decide
theorem test_legal_refuses_shared_error_code :
    { Cfg.reference with errCodes := { Cfg.reference.errCodes with io := BitVec.ofInt 32 (-6) } }.errLegal
      = false := by decide

/-! The codec's arithmetic (95 section 2.4). -/

theorem test_decode8 : decode8 0xFC 5 = -128 ∧ decode8 0x80 6 = -8192 := by decide
theorem test_encode8_floors_and_wraps :
    encode8 (BitVec.ofInt 16 (-100)) 5 = 0xFC ∧ encode8 (BitVec.ofInt 16 (-8193)) 6 = 0x7F := by decide
theorem test_rxDc : decodeRxDc 0x2AB = -2728 ∧ encodeRxDc (BitVec.ofInt 16 (-9)) = 0x3FE := by decide
theorem test_unpack_rx1_dcI : unpack ⟨0, 4, 2, 6⟩ 0xFA 0xAF = 0x2AB := by decide
theorem test_unpack_rx2_dcI_alternative : unpack ⟨0, 8, 6, 2⟩ 0xFA 0xAF = 0x3EA := by decide
theorem test_pack_rx2_dcQ :
    packTop ⟨0, 6, 4, 4⟩ 0xA5 0x3FF = 0xBF ∧ packBot ⟨0, 6, 4, 4⟩ 0x5A 0x3FF = 0xFA := by decide

/-! One command each (95 sections 2.2 and 2.3). -/

/-- `up` with an RFFE value. -/
def upWith (rffe : Rffe) : State := up.withRffe rffe

/-- A board at a board state. -/
def upAt (b : BoardState) : State := up.withBstate b

/-- The collaborators answer the next calls with these statuses. -/
def answering (s : State) (l : List Int) : State := { s with replies := l }

theorem test_fwDetected_U1 :
    after (exec .fwDetected State.reset) = (upAt .firmwareLoaded).respond 0 0 := by decide
theorem test_fwDetected_U2 : after (exec .fwDetected up) = up.respond 0 0 := by decide
theorem test_fpgaLoaded_U3 :
    after (exec .fpgaLoaded State.reset) = State.reset.respond (BitVec.ofInt 32 (-19)) 0 := by decide
theorem test_fpgaLoaded_U5 :
    (after (exec .fpgaLoaded up)).bstate = .initialized ∧ (after (exec .fpgaLoaded up)).response = ok 0 := by
  decide
theorem test_init_U7 :
    let t := after (exec .init ((upAt .fpgaLoaded).withRffe 0xDEAD0000))
    t.bstate = .initialized ∧ t.rffe = 0 ∧ t.port = ⟨0, 0⟩ ∧ t.loFreq = ⟨2400000000, 2400000000⟩ := by
  decide
theorem test_init_U10 :
    let t := after (exec .init (answering (upAt .fpgaLoaded) [0, 0, 0, 0, 0, 0, 0, timeout]))
    t.bstate = .fpgaLoaded ∧ t.rffe = 0 ∧ t.port.rx = 0 ∧ t.response = err .timeout := by decide
theorem test_close_U11 :
    let t := after (exec .close (up.withHandle .tx true))
    t.bstate = .uninitialized ∧ t.syncHandle = ⟨false, false⟩ ∧ t.response = ok 0 := by decide
theorem test_selectBand_B2 :
    let t := after (exec (.selectBand 2 4000000000) (upWith 0x282))
    t.rffe = 0x142 ∧ t.port.rx = 0 := by decide
theorem test_selectBand_B5 :
    let t := after (exec (.selectBand 1 200000000) (upWith 0xFFFF07C6))
    t.rffe = 0xFFFF57C6 ∧ t.port.tx = 1 := by decide
theorem test_setFrequency_B10 :
    let t := after (exec (.setFrequency 0 3000000000) (upWith 0x282))
    t.rffe = 0x142 ∧ t.port.rx = 0 ∧ t.loFreq.rx = 3000000000 := by decide
theorem test_setFrequency_B15 :
    let t := after (exec (.setFrequency 0 4000000000) (answering (upWith 0x282) [0, 0, 0, io]))
    t.loFreq.rx = 4000000000 ∧ t.port.rx = 0 ∧ t.response = err .io := by decide
theorem test_setRfPort_B17 :
    let t := after (exec (.setRfPort 0 2) (upWith 0x282))
    t.port.rx = 2 ∧ t.rffe = 0x282 ∧ t.response = ok 0 := by decide
theorem test_setRfPort_B19 : after (exec (.setRfPort 1 2) up) = up.fail .inval := by decide
theorem test_getRfPort_B20 :
    (after (exec (.getRfPort 2) (up.withPort .rx 1))).response = ok 1 := by decide
theorem test_getRfPort_B21 :
    (after (exec (.getRfPort 1) (up.withPort .tx 5))).response = err .unexpected := by decide

/-! One command each (95 sections 2.5 to 2.7). -/

theorem test_getCorrection_K7 :
    (after (exec (.getCorrection 0 0) (((up.withPort .rx 1).setFe 0x17F 0xFA).setFe 0x17E 0xAF))).response
      = ok 0xFFFFFFFFFFFFF558 := by decide
theorem test_getCorrection_K10 :
    (after (exec (.getCorrection 0 2) (up.withPort .rx 3))).response = err .unsupported := by decide
theorem test_setCorrection_K8 :
    let t := after (exec (.setCorrection 0 0 1000) up)
    t.fe = [(0x175, 0xF4), (0x176, 0x01), (0x182, 0x04)]
      ∧ t.calls = [.phyGetPort .rx, .spiRead 0x176, .spiRead 0x175, .spiWrite 0x176 0x01,
          .spiWrite 0x175 0xF4, .spiRead 0x182, .spiWrite 0x182 0x04] := by decide
theorem test_setCorrection_K14 :
    let t := after (exec (.setCorrection 1 0 100) (answering up [0, 0, io]))
    t.fe = [(0x092, 0x03)] ∧ t.response = err .io := by decide
theorem test_setCorrection_K15 :
    let t := after (exec (.setCorrection 0 0 1000) (answering (up.withPort .rx 1) [0, 0, 0, 0, io]))
    t.response = err .io
      ∧ t.calls = [.phyGetPort .rx, .spiRead 0x17F, .spiRead 0x17E, .spiWrite 0x17F 0x01,
          .spiWrite 0x17E 0xF4] := by decide
theorem test_enableModule_E1 :
    let t := after (exec (.enableModule 0) (up.withLo .rx 2400000000))
    t.port.rx = 1 ∧ t.rffe = 0x282 ∧ t.modEn.rx = true := by decide
theorem test_enableModule_E8 :
    let t := after (exec (.enableModule 0) { up.withLo .rx 6000000000 with cfg := lowTop })
    t.rffe = 0x002 ∧ t.port.rx = 0 ∧ t.response = ok 0 := by decide
theorem test_enableModule_E10 :
    let t := after (exec (.enableModule 0) (answering (up.withLo .rx 2400000000) [0, 0, 0, 0, nodev]))
    t.port.rx = 1 ∧ t.rffe = 0x282 ∧ t.response = err .nodev := by decide
theorem test_disableModule_E5 :
    let t := after (exec (.disableModule 0) ((upWith 0x5286).withHandle .rx true))
    t.rffe = 0x5004 ∧ t.syncHandle.rx = false
      ∧ t.calls = [.streamTeardown .rx, .rffeRead, .rffeWrite 0x5004, .backendEnable .rx false] := by
  decide
theorem test_disableModule_E9 :
    let t := after (exec (.disableModule 0)
      (answering (((upWith 0x5286).withHandle .rx true).withModEn .rx true) [0, io]))
    t.syncHandle.rx = false ∧ t.modEn.rx = true ∧ t.response = err .io := by decide
theorem test_syncConfig_E11 : (after (exec (.syncConfig 3) up)).syncHandle = ⟨false, true⟩ := by decide
theorem test_regRead_A1 :
    (after (exec (.regRead 0x037) ((upAt .fpgaLoaded).setFe 0x037 0x0A))).response = ok 10 := by decide
theorem test_regRead_A8 :
    (after (exec (.regRead 0x182) (answering up [timeout]))).response = err .timeout := by decide
theorem test_regWrite_A6 :
    (after (exec (.regWrite 0x09F 0x00) (up.setFe 0x09F 0x64))).fe = [] := by decide
theorem test_regWrite_A5 : after (exec (.regWrite 0x8092 0xFF) up) = up.fail .inval := by decide

/-! Witnesses: for each statement with hypotheses, a state and operands that meet them all, and one for
each clause, at the ends of its range. -/

/-- These commands are issued and not yet executed. -/
def queue (s : State) (l : List Command) : State := { s with pending := l }

/-- Receive enabled at the Low band: code 0xA, port 1. -/
def live : State := ((upWith 0x282).withPort .rx 1).withLo .rx 2400000000

/-- Every correction of the transmit channels forced. -/
def forcedTx : State := (up.setFe 0x09F 0xFF).setFe 0x092 0x03

theorem calls_succeed {s : State} (h : s.replies = []) (n : Nat) : s.nextCallsSucceed n := by
  simp [State.nextCallsSucceed, h]

theorem up_inv : up.Inv := ⟨by decide, by decide, by decide, by decide⟩
theorem live_inv : live.Inv := ⟨by decide, by decide, by decide, by decide⟩
theorem forcedTx_inv : forcedTx.Inv := ⟨by decide, by decide, by decide, by decide⟩

theorem witness_DecodeIgnoresUnusedFields :
    let c : Command := ⟨0x210100FF, 0xFFFFFFFFFFFF0064⟩
    let c' : Command := ⟨0x21010000, 0x64⟩
    let i := Instr.setCorrection 1 0 100
    decode c = .ok i ∧ c'.op = c.op ∧ (i.usesChan = true → c'.ch = c.ch)
      ∧ (i.usesKind = true → c'.kind = c.kind)
      ∧ (∀ n, n < i.argBits → c'.arg.getLsbD n = c.arg.getLsbD n) := by decide

theorem witness_StepRunsDecodedCommand :
    (queue up [⟨0x31000000, 0⟩]).pending = ⟨0x31000000, 0⟩ :: []
      ∧ decode ⟨0x31000000, 0⟩ = .ok (.disableModule 0)
      ∧ (queue up [⟨0x7F000000, 0⟩]).pending = ⟨0x7F000000, 0⟩ :: [] := by decide

theorem witness_StepWithoutCommandStays : live.pending = [] := by decide

theorem witness_UnknownOpcodeAnswersInvalid :
    (queue up [⟨0x7F000000, 0⟩]).pending = ⟨0x7F000000, 0⟩ :: []
      ∧ (Command.mk 0x7F000000 0).op ∉ opcodes := by decide

theorem witness_ForcedCorrectionsHoldBetweenCommands :
    forcedTx.bstate = .initialized
      ∧ forcedTx.cfg.feHas (forcedTx.cfg.forceReg.get .tx1) = true
      ∧ forcedTx.forced .tx1 .dcI .high = true
      ∧ (⟨.tx1, .dcI, .high, 0x092, 0xFF⟩ : CorrField) ∈ forcedTx.cfg.fieldsOf .tx1 .dcI .high
      ∧ forcedTx.cfg.feHas 0x092 = true
      ∧ forcedTx.cfg.feHas 0x176 = true ∧ forcedTx.cfg.isForceReg 0x176 = false
      ∧ (∀ f ∈ forcedTx.cfg.fieldsAt 0x176, forcedTx.forced f.ch f.kind f.band = false)
      ∧ forcedTx.cfg.feHas 0x3FF = true ∧ forcedTx.cfg.isForceReg 0x3FF = false
      ∧ (∀ f ∈ forcedTx.cfg.fieldsAt 0x3FF, forcedTx.forced f.ch f.kind f.band = false) := by decide

theorem witness_EveryCommandAnswers :
    live.cfg.legal = true ∧ (queue live [encode (.getRfPort 0)]).pending = encode (.getRfPort 0) :: []
      ∧ (∀ i, decode (encode .close) = .ok i → i.returnsResult = false) :=
  ⟨by decide, rfl, fun i h => by cases h; rfl⟩

theorem witness_StepKeepsInvariant :
    (queue live [encode (.enableModule 1)]).Inv
      ∧ ∃ t, step (queue live [encode (.enableModule 1)]) = .next t :=
  ⟨⟨by decide, by decide, by decide, by decide⟩, _, rfl⟩

theorem witness_StepKeepsConfiguration :
    ∃ t, step (queue live [encode .close]) = .next t :=
  ⟨_, rfl⟩

theorem witness_BoardStateMovesForward : ∃ t, exec .fwDetected State.reset = .next t := ⟨_, rfl⟩

theorem witness_FieldsChangedOnlyByTheirCommands :
    (∃ t, exec (.getRfPort 0) live = .next t) ∧ Instr.getRfPort 0 ≠ .close := ⟨⟨_, rfl⟩, by decide⟩

theorem witness_OtherDirectionUntouched :
    live.cfg.legal = true ∧ (Instr.enableModule 1).chan? = some .tx1 ∧ Dir.rx ≠ Chan.tx1.dir
      ∧ ∃ t, exec (.enableModule 1) live = .next t ∧ t.succeeded :=
  ⟨by decide, by decide, by decide, _, rfl, _, rfl⟩

theorem witness_DisabledDirectionHasShutdownCode :
    up.cfg.legal = true ∧ Chan.ofCode 2 = some .rx2
      ∧ (∃ t, exec (.selectBand 2 0) up = .next t ∧ t.succeeded ∧ t.enabled .rx = false)
      ∧ (∃ t, exec (.setFrequency 2 70000000) up = .next t ∧ t.succeeded ∧ t.enabled .rx = false)
      ∧ (∃ t, exec (.enableModule 2) up = .next t ∧ t.succeeded)
      ∧ ∃ t, exec (.disableModule 2) live = .next t ∧ t.succeeded ∧ t.enabled .rx = false :=
  ⟨by decide, by decide, ⟨_, rfl, ⟨_, rfl⟩, by decide⟩, ⟨_, rfl, ⟨_, rfl⟩, by decide⟩, ⟨_, rfl, _, rfl⟩,
    _, rfl, ⟨_, rfl⟩, by decide⟩

theorem witness_StepKeepsShutdownOfDisabled :
    let s := queue live [encode (.disableModule 0)]
    s.cfg.legal = true ∧ decode (encode (.disableModule 0)) ≠ .ok .fpgaLoaded
      ∧ decode (encode (.disableModule 0)) ≠ .ok .close
      ∧ (∀ d, s.shutWhenDisabled d) ∧ ∃ t, step s = .next t ∧ t.succeeded :=
  ⟨by decide, by decide, by decide, fun d => by cases d <;> unfold State.shutWhenDisabled <;> decide,
    _, rfl, _, rfl⟩

theorem witness_GateThenOperandCheck :
    State.reset.bstate.code < (State.reset.cfg.minState (.getCorrection 9 0)).code
      ∧ (up.cfg.minState (.getCorrection 9 0)).code ≤ up.bstate.code
      ∧ (Instr.getCorrection 9 0).wellFormed = false ∧ (Instr.getCorrection 3 4).wellFormed = false := by
  decide

theorem witness_RefusedOperandsChangeNothing :
    up.bstate = .initialized ∧ Chan.ofCode 0 = some .rx1
      ∧ (up.cfg.freqRange.get .rx).contains ((69999999 : Freq).toNat : Int) = false
      ∧ (up.cfg.freqRange.get .rx).contains ((6000000001 : Freq).toNat : Int) = false
      ∧ up.cfg.portValid .rx 12 = false
      ∧ up.cfg.regMinState.code ≤ up.bstate.code ∧ 2 ^ up.cfg.feAddrBits ≤ (0x400 : RegAddr).toNat := by
  decide

theorem witness_UnknownPortAnswers :
    let s := up.withPort .rx 12
    s.bstate = .initialized ∧ Chan.ofCode 0 = some .rx1 ∧ s.nextCallsSucceed 1
      ∧ Kind.ofCode 2 = some .phase ∧ s.cfg.corrBandOfPort Chan.rx1.dir (s.port.get Chan.rx1.dir) = none
      ∧ s.cfg.portValid Chan.rx1.dir (s.port.get Chan.rx1.dir) = false :=
  ⟨by decide, by decide, calls_succeed rfl 1, by decide, by decide, by decide⟩

theorem witness_FpgaLoadedResult : (upAt .firmwareLoaded).bstate ≠ .uninitialized := by decide

theorem witness_InitResult :
    (upAt .fpgaLoaded).cfg.legal = true
      ∧ BoardState.fpgaLoaded.code ≤ (upAt .fpgaLoaded).bstate.code
      ∧ (upAt .fpgaLoaded).nextCallsSucceed 9 :=
  ⟨by decide, by decide, calls_succeed rfl 9⟩

theorem witness_FailedInitKeepsBoardState :
    ∃ t, exec .init (answering (upAt .fpgaLoaded) [io]) = .next t ∧ ¬ t.succeeded :=
  ⟨_, rfl, fun ⟨_, h⟩ => by cases h⟩

theorem witness_SelectBandResult :
    BoardState.fpgaLoaded.code ≤ (upAt .fpgaLoaded).bstate.code ∧ Chan.ofCode 2 = some .rx2
      ∧ (upAt .fpgaLoaded).nextCallsSucceed 3 ∧ live.nextCallsSucceed 3
      ∧ live.enabled .rx = true ∧ live.enabled .tx = false :=
  ⟨by decide, by decide, calls_succeed rfl 3, calls_succeed rfl 3, by decide, by decide⟩

theorem witness_SetFrequencyResult :
    live.bstate = .initialized ∧ Chan.ofCode 0 = some .rx1 ∧ live.nextCallsSucceed 4
      ∧ (live.cfg.freqRange.get Chan.rx1.dir).contains ((70000000 : Freq).toNat : Int) = true
      ∧ (live.cfg.freqRange.get Chan.rx1.dir).contains ((6000000000 : Freq).toNat : Int) = true :=
  ⟨by decide, by decide, calls_succeed rfl 4, by decide, by decide⟩

theorem witness_SetRfPortResult :
    up.bstate = .initialized ∧ Chan.ofCode 0 = some .rx1 ∧ up.nextCallsSucceed 1
      ∧ up.cfg.portValid Chan.rx1.dir 0 = true ∧ up.cfg.portValid Chan.rx1.dir 11 = true :=
  ⟨by decide, by decide, calls_succeed rfl 1, by decide, by decide⟩

theorem witness_GetRfPortResult :
    live.bstate = .initialized ∧ Chan.ofCode 0 = some .rx1 ∧ live.nextCallsSucceed 1
      ∧ live.cfg.portValid Chan.rx1.dir (live.port.get Chan.rx1.dir) = true :=
  ⟨by decide, by decide, calls_succeed rfl 1, by decide⟩

theorem witness_GetCorrectionSingleResult :
    up.cfg.legal = true ∧ up.bstate = .initialized ∧ Chan.ofCode 3 = some .tx2
      ∧ Kind.ofCode 3 = some .gain
      ∧ up.cfg.slot .tx2 .gain = .single (SingleEntry.reference 0x091 0x099 6)
      ∧ up.cfg.corrBandOfPort Chan.tx2.dir (up.port.get Chan.tx2.dir) = some .high
      ∧ up.nextCallsSucceed 2 :=
  ⟨by decide, by decide, by decide, by decide, by decide, by decide, calls_succeed rfl 2⟩

theorem witness_GetCorrectionPairResult :
    live.cfg.legal = true ∧ live.bstate = .initialized ∧ Chan.ofCode 2 = some .rx2
      ∧ Kind.ofCode 1 = some .dcQ
      ∧ live.cfg.slot .rx2 .dcQ
          = .pair (PairEntry.reference ⟨0x177, 0x176⟩ ⟨0x180, 0x17F⟩ ⟨0, 6, 4, 4⟩)
      ∧ live.cfg.corrBandOfPort Chan.rx2.dir (live.port.get Chan.rx2.dir) = some .low
      ∧ live.nextCallsSucceed 3 :=
  ⟨by decide, by decide, by decide, by decide, by decide, by decide, calls_succeed rfl 3⟩

theorem witness_SetCorrectionSingleResult :
    up.Inv ∧ up.bstate = .initialized ∧ Chan.ofCode 1 = some .tx1 ∧ Kind.ofCode 0 = some .dcI
      ∧ up.cfg.slot .tx1 .dcI = .single (SingleEntry.reference 0x092 0x09A 5)
      ∧ up.cfg.slotApart .tx1 .dcI .high = true
      ∧ up.cfg.corrBandOfPort Chan.tx1.dir (up.port.get Chan.tx1.dir) = some .high
      ∧ up.nextCallsSucceed 4 :=
  ⟨up_inv, by decide, by decide, by decide, by decide, by decide, by decide, calls_succeed rfl 4⟩

theorem witness_SetCorrectionPairResult :
    live.Inv ∧ live.bstate = .initialized ∧ Chan.ofCode 0 = some .rx1 ∧ Kind.ofCode 0 = some .dcI
      ∧ live.cfg.slot .rx1 .dcI
          = .pair (PairEntry.reference ⟨0x176, 0x175⟩ ⟨0x17F, 0x17E⟩ ⟨0, 4, 2, 6⟩)
      ∧ live.cfg.slotApart .rx1 .dcI .low = true
      ∧ live.cfg.corrBandOfPort Chan.rx1.dir (live.port.get Chan.rx1.dir) = some .low
      ∧ live.nextCallsSucceed 7 :=
  ⟨live_inv, by decide, by decide, by decide, by decide, by decide, by decide, calls_succeed rfl 7⟩

/-- No correction of the reference `Cfg` shares a register with a force register. -/
theorem test_reference_slotApart :
    ∀ ch ∈ Chan.all, ∀ k ∈ Kind.all, ∀ b ∈ CorrBand.all, Cfg.reference.slotApart ch k b = true := by
  decide

theorem witness_EnableModuleResult :
    up.bstate = .initialized ∧ Chan.ofCode 3 = some .tx2 ∧ up.nextCallsSucceed 5 :=
  ⟨by decide, by decide, calls_succeed rfl 5⟩

theorem witness_DisableModuleResult :
    live.bstate = .initialized ∧ Chan.ofCode 0 = some .rx1 ∧ live.nextCallsSucceed 3 :=
  ⟨by decide, by decide, calls_succeed rfl 3⟩

theorem witness_SyncConfigResult : up.bstate = .initialized ∧ Chan.ofCode 3 = some .tx2 := by decide

theorem witness_RegReadResult :
    up.cfg.regMinState.code ≤ (upAt .fpgaLoaded).bstate.code
      ∧ (0x3FF : RegAddr).toNat < 2 ^ up.cfg.feAddrBits ∧ (upAt .fpgaLoaded).nextCallsSucceed 1 :=
  ⟨by decide, by decide, calls_succeed rfl 1⟩

theorem witness_RegWriteKnownResult :
    up.Inv ∧ up.cfg.regMinState.code ≤ up.bstate.code
      ∧ (0x182 : RegAddr).toNat < 2 ^ up.cfg.feAddrBits ∧ up.cfg.knownReg (0x182 : RegAddr).toNat = true
      ∧ up.nextCallsSucceed 1 :=
  ⟨up_inv, by decide, by decide, by decide, calls_succeed rfl 1⟩

theorem witness_RegWriteOpaqueResult :
    forcedTx.cfg.regMinState.code ≤ forcedTx.bstate.code
      ∧ (0x3FF : RegAddr).toNat < 2 ^ forcedTx.cfg.feAddrBits
      ∧ forcedTx.cfg.knownReg (0x3FF : RegAddr).toNat = false ∧ forcedTx.nextCallsSucceed 1
      ∧ forcedTx.cfg.feHas (forcedTx.cfg.forceReg.get .tx1) = true
      ∧ forcedTx.cfg.feHas 0x092 = true ∧ forcedTx.cfg.fieldsAt (0x092 : RegAddr).toNat ≠ []
      ∧ (∀ f ∈ forcedTx.cfg.fieldsAt (0x092 : RegAddr).toNat,
          forcedTx.forced f.ch f.kind f.band = true)
      ∧ forcedTx.cfg.isForceReg (0x3FF : RegAddr).toNat = false
      ∧ forcedTx.cfg.fieldsAt (0x3FF : RegAddr).toNat = [] :=
  ⟨by decide, by decide, by decide, calls_succeed rfl 1, by decide, by decide, by decide, by decide,
    by decide, by decide⟩

/-- RX1 DC forced, RX2 DC not: register 0x176 has a field of each. -/
def forcedShared : State := (up.setFe 0x176 0xFF).setFe 0x182 0x04

/-- The register they share: not whole through an opaque write, the forced field between commands. -/
theorem test_shared_register_holds :
    forcedShared.heldWhole 0x176 = 0 ∧ forcedShared.heldBits 0x176 = 0x0F := by decide

theorem witness_RegWriteOpaqueResult_shared :
    forcedShared.cfg.regMinState.code ≤ forcedShared.bstate.code ∧ forcedShared.nextCallsSucceed 1
      ∧ forcedShared.cfg.feHas 0x176 = true
      ∧ forcedShared.cfg.isForceReg (0x176 : RegAddr).toNat = false
      ∧ (∃ f ∈ forcedShared.cfg.fieldsAt (0x176 : RegAddr).toNat,
          forcedShared.forced f.ch f.kind f.band = false)
      ∧ ∃ f ∈ forcedShared.cfg.fieldsAt (0x176 : RegAddr).toNat,
          forcedShared.forced f.ch f.kind f.band = true :=
  ⟨by decide, calls_succeed rfl 1, by decide, by decide, by decide, by decide⟩

theorem witness_SetFrequencyFailureWindow :
    live.bstate = .initialized ∧ Chan.ofCode 0 = some .rx1
      ∧ (live.cfg.freqRange.get Chan.rx1.dir).contains ((4000000000 : Freq).toNat : Int) = true ∧ io < 0
      ∧ (answering live [io]).replies[0]? = some io
      ∧ (answering live [0, io]).nextCallsSucceed 1 ∧ (answering live [0, io]).replies[1]? = some io
      ∧ (answering live [0, 0, io]).nextCallsSucceed 2
      ∧ (answering live [0, 0, io]).replies[2]? = some io
      ∧ (answering live [0, 0, 0, io]).nextCallsSucceed 3
      ∧ (answering live [0, 0, 0, io]).replies[3]? = some io := by
  unfold State.nextCallsSucceed
  decide

theorem witness_SetCorrectionFailsUnforced :
    (answering up [0, 0, io]).Inv ∧ up.bstate = .initialized ∧ Chan.ofCode 1 = some .tx1
      ∧ Chan.ofCode 0 = some .rx1 ∧ Kind.ofCode 0 = some .dcI
      ∧ up.cfg.slotApart .tx1 .dcI .high = true ∧ up.cfg.slotApart .rx1 .dcI .high = true
      ∧ up.cfg.corrBandOfPort Chan.tx1.dir (up.port.get Chan.tx1.dir) = some .high
      ∧ up.cfg.corrBandOfPort Chan.rx1.dir (up.port.get Chan.rx1.dir) = some .high ∧ io < 0
      ∧ (answering up [0, 0, io]).nextCallsSucceed 2 ∧ (answering up [0, 0, io]).replies[2]? = some io
      ∧ (answering up [0, 0, 0, 0, 0, io]).nextCallsSucceed 5
      ∧ (answering up [0, 0, 0, 0, 0, io]).replies[5]? = some io := by
  refine ⟨⟨by decide, by decide, by decide, by decide⟩, ?_⟩
  unfold State.nextCallsSucceed
  decide

theorem witness_SelectBandFailureWindow :
    BoardState.fpgaLoaded.code ≤ live.bstate.code ∧ Chan.ofCode 2 = some .rx2 ∧ io < 0
      ∧ (answering live [io]).replies[0]? = some io
      ∧ (answering live [0, io]).nextCallsSucceed 1 ∧ (answering live [0, io]).replies[1]? = some io
      ∧ (answering live [0, 0, io]).nextCallsSucceed 2
      ∧ (answering live [0, 0, io]).replies[2]? = some io := by
  unfold State.nextCallsSucceed
  decide

theorem witness_EnableModuleFailureWindow :
    up.bstate = .initialized ∧ Chan.ofCode 1 = some .tx1 ∧ io < 0
      ∧ (answering up [io]).replies[0]? = some io
      ∧ (answering up [0, io]).nextCallsSucceed 1 ∧ (answering up [0, io]).replies[1]? = some io
      ∧ (answering up [0, 0, io]).nextCallsSucceed 2 ∧ (answering up [0, 0, io]).replies[2]? = some io
      ∧ (answering up [0, 0, 0, io]).nextCallsSucceed 3
      ∧ (answering up [0, 0, 0, io]).replies[3]? = some io
      ∧ (answering up [0, 0, 0, 0, io]).nextCallsSucceed 4
      ∧ (answering up [0, 0, 0, 0, io]).replies[4]? = some io := by
  unfold State.nextCallsSucceed
  decide

theorem witness_DisableModuleFailureWindow :
    live.bstate = .initialized ∧ Chan.ofCode 0 = some .rx1 ∧ io < 0
      ∧ (answering live [io]).replies[0]? = some io
      ∧ (answering live [0, io]).nextCallsSucceed 1 ∧ (answering live [0, io]).replies[1]? = some io
      ∧ (answering live [0, 0, io]).nextCallsSucceed 2
      ∧ (answering live [0, 0, io]).replies[2]? = some io := by
  unfold State.nextCallsSucceed
  decide

theorem witness_InitFailureWindow :
    (upAt .fpgaLoaded).cfg.legal = true
      ∧ BoardState.fpgaLoaded.code ≤ (upAt .fpgaLoaded).bstate.code ∧ io < 0
      ∧ ∀ k < 9, (answering (upAt .fpgaLoaded) (List.replicate k 0 ++ [io])).nextCallsSucceed k
          ∧ (answering (upAt .fpgaLoaded) (List.replicate k 0 ++ [io])).replies[k]? = some io := by
  refine ⟨by decide, by decide, by decide, ?_⟩
  unfold State.nextCallsSucceed
  decide

theorem witness_SetCorrectionWriteFails :
    (answering up [0, io]).Inv ∧ up.bstate = .initialized ∧ Chan.ofCode 1 = some .tx1
      ∧ Chan.ofCode 0 = some .rx1 ∧ Kind.ofCode 0 = some .dcI
      ∧ up.cfg.slotApart .tx1 .dcI .high = true ∧ up.cfg.slotApart .rx1 .dcI .high = true
      ∧ up.cfg.corrBandOfPort Chan.tx1.dir (up.port.get Chan.tx1.dir) = some .high
      ∧ up.cfg.corrBandOfPort Chan.rx1.dir (up.port.get Chan.rx1.dir) = some .high ∧ io < 0
      ∧ up.cfg.slot .tx1 .dcI = .single (SingleEntry.reference 0x092 0x09A 5)
      ∧ up.cfg.slot .rx1 .dcI
          = .pair (PairEntry.reference ⟨0x176, 0x175⟩ ⟨0x17F, 0x17E⟩ ⟨0, 4, 2, 6⟩)
      ∧ ∀ k ∈ [1, 3, 4, 6], (answering up (List.replicate k 0 ++ [io])).nextCallsSucceed k
          ∧ (answering up (List.replicate k 0 ++ [io])).replies[k]? = some io := by
  refine ⟨⟨by decide, by decide, by decide, by decide⟩, ?_⟩
  unfold State.nextCallsSucceed
  decide

theorem witness_TeardownPrecedesDisable :
    live.bstate = .initialized ∧ Chan.ofCode 0 = some .rx1
      ∧ (∃ t, exec (.disableModule 0) live = .next t)
      ∧ ∃ t, exec (.disableModule 0) (answering live [0, io]) = .next t :=
  ⟨by decide, by decide, ⟨_, rfl⟩, _, rfl⟩

theorem witness_StatusTranslation :
    (∀ row ∈ Cfg.reference.errMap, row.code ≠ (-1000 : Int).natAbs)
      ∧ Cfg.reference.errMap = Cfg.reference.errMap.take 6 ++ ⟨110, .timeout⟩ :: []
      ∧ timeout.natAbs = 110 ∧ (∀ x ∈ Cfg.reference.errMap.take 6, x.code ≠ timeout.natAbs) := by decide

theorem witness_ClampSaturatesAndIsIdempotent :
    let r : Range := ⟨-4, 71, 1, 1⟩
    r.min * r.scale ≤ r.max * r.scale ∧ -5 < r.min * r.scale ∧ r.max * r.scale < 72
      ∧ r.contains (-4) = true ∧ r.contains 71 = true := by decide

theorem witness_BandSelectionProperties :
    Cfg.reference.bandTablesStandard = true
      ∧ (2999999999 : Freq).toNat < Cfg.reference.fBoundary
      ∧ Cfg.reference.fBoundary ≤ (3000000000 : Freq).toNat
      ∧ (6000000000 : Freq).toNat ≤ Cfg.reference.fBandMax
      ∧ Cfg.reference.fBandMax < (6000000001 : Freq).toNat
      ∧ live.cfg.legal = true
      ∧ ∃ t u, selectBand .rx1 4000000000 live = .done () t ∧ selectBand .rx1 4000000000 t = .done () u :=
  ⟨by decide, by decide, by decide, by decide, by decide, by decide, _, _, rfl, rfl⟩

theorem witness_RffeFieldsAreWrittenAlone :
    Cfg.reference.legal = true ∧ 5 < Cfg.reference.antLsb.get .rx
      ∧ Cfg.reference.antLsb.get .rx + Cfg.reference.antW ≤ 10 ∧ 0 ≠ Cfg.reference.enBit.get .rx := by
  decide

theorem witness_SingleRegisterRoundTrip :
    -(2 ^ (5 + 7)) ≤ (BitVec.ofInt 16 (-4096)).toInt ∧ (BitVec.ofInt 16 4095).toInt < 2 ^ (5 + 7)
      ∧ -(2 ^ (6 + 7)) ≤ (BitVec.ofInt 16 (-8192)).toInt
      ∧ (BitVec.ofInt 16 8191).toInt < 2 ^ (6 + 7) := by decide

theorem witness_PackUnpackRoundTrip :
    (Layout.mk 0 4 2 6).legal = true ∧ (Layout.mk 0 2 0 8).legal = true
      ∧ (Layout.mk 0 8 0 2).legal = true ∧ (Layout.mk 0 6 4 4).legal = true := by decide

theorem witness_SetThenGetRoundsDown_single :
    let s := queue up [encode (.setCorrection 1 0 100), encode (.getCorrection 1 0)]
    s.Inv ∧ s.bstate = .initialized ∧ Chan.ofCode 1 = some .tx1 ∧ Kind.ofCode 0 = some .dcI
      ∧ s.cfg.slotApart .tx1 .dcI .high = true
      ∧ s.cfg.corrBandOfPort Chan.tx1.dir (s.port.get Chan.tx1.dir) = some .high
      ∧ -(s.cfg.slot .tx1 .dcI).top ≤ (100 : BitVec 16).toInt
      ∧ (100 : BitVec 16).toInt < (s.cfg.slot .tx1 .dcI).top
      ∧ s.pending = encode (.setCorrection 1 0 100) :: encode (.getCorrection 1 0) :: []
      ∧ s.nextCallsSucceed 10 :=
  ⟨⟨by decide, by decide, by decide, by decide⟩, by decide, by decide, by decide, by decide, by decide,
    by decide, by decide, rfl, calls_succeed rfl 10⟩

theorem witness_SetThenGetRoundsDown_pair :
    let v := BitVec.ofInt 16 (-4096)
    let s := queue up [encode (.setCorrection 0 0 v), encode (.getCorrection 0 0)]
    s.Inv ∧ s.bstate = .initialized ∧ Chan.ofCode 0 = some .rx1 ∧ Kind.ofCode 0 = some .dcI
      ∧ s.cfg.slotApart .rx1 .dcI .high = true
      ∧ s.cfg.corrBandOfPort Chan.rx1.dir (s.port.get Chan.rx1.dir) = some .high
      ∧ -(s.cfg.slot .rx1 .dcI).top ≤ v.toInt ∧ v.toInt < (s.cfg.slot .rx1 .dcI).top
      ∧ s.pending = encode (.setCorrection 0 0 v) :: encode (.getCorrection 0 0) :: []
      ∧ s.nextCallsSucceed 10 :=
  ⟨⟨by decide, by decide, by decide, by decide⟩, by decide, by decide, by decide, by decide, by decide,
    by decide, by decide, rfl, calls_succeed rfl 10⟩

theorem witness_SetCorrectionClearsNoForceBit :
    forcedTx.Inv ∧ Chan.ofCode 1 = some .tx1 ∧ Kind.ofCode 0 = some .dcI
      ∧ forcedTx.cfg.corrBandOfPort Chan.tx1.dir (forcedTx.port.get Chan.tx1.dir) = some .high
      ∧ forcedTx.cfg.slotApart .tx1 .dcI .high = true
      ∧ (∃ t, exec (.setCorrection 1 0 100) forcedTx = .next t ∧ t.succeeded)
      ∧ (forcedTx.feAt (forcedTx.cfg.forceReg.get .tx2)).getLsbD 7 = true :=
  ⟨forcedTx_inv, by decide, by decide, by decide, by decide, ⟨_, rfl, _, rfl⟩, by decide⟩

theorem witness_ForceRegisterWriteThenRead :
    let s := queue up [encode (.regWrite 0x182 4), encode (.regRead 0x182)]
    s.Inv ∧ s.bstate = .initialized
      ∧ s.pending = encode (.regWrite (s.cfg.forceReg.get .rx1) 4)
          :: encode (.regRead (s.cfg.forceReg.get .rx1)) :: []
      ∧ s.nextCallsSucceed 2 :=
  ⟨⟨by decide, by decide, by decide, by decide⟩, by decide, by decide, calls_succeed rfl 2⟩

theorem witness_EnableTwiceIsIdempotent :
    up.cfg.legal = true ∧ Chan.ofCode 0 = some .rx1 ∧ Chan.ofCode 2 = some .rx2
      ∧ Chan.rx2.dir = Chan.rx1.dir
      ∧ ∃ t u, exec (.enableModule 0) up = .next t ∧ t.succeeded
          ∧ exec (.enableModule 2) t = .next u ∧ u.succeeded :=
  ⟨by decide, by decide, by decide, by decide, _, _, rfl, ⟨_, rfl⟩, rfl, _, rfl⟩

theorem witness_BootSequence :
    let s := queue State.reset [encode .fwDetected, encode .fpgaLoaded, encode .init]
    s.cfg.legal = true
      ∧ s.pending = encode .fwDetected :: encode .fpgaLoaded :: encode .init :: []
      ∧ s.nextCallsSucceed 9 :=
  ⟨by decide, rfl, calls_succeed rfl 9⟩

end Sys2Proof.Tests
end

-- What every command keeps of the state it finds, and the five statements of the scope family.
section
/-!
SUPPORT and PROOFS. What every part of a command keeps of the state it started from (`Kept`), said once
for each update, primitive, check and command, and the statements on the whole step that follow from
it: `StepKeepsInvariant`, `EveryCommandAnswers`, `StepKeepsConfiguration`, `StepWithoutCommandStays`,
`InvariantAtReset`.
-/

namespace Sys2Proof

/-! A value of the RFFE register keeps its width under the two field writes (10_state rule R24). -/

theorem Cfg.withAntenna_lt {c : Cfg} (hc : c.legal = true) (d : Dir) (b : Band) {r : Rffe}
    (hr : r < 2 ^ c.rffeBits) : c.withAntenna d b r < 2 ^ c.rffeBits := by
  obtain ⟨-, hant, -⟩ := Cfg.legal_rffeFields hc
  exact Machine.setNatField_lt _ hr (hant d)

theorem Cfg.withEnable_lt {c : Cfg} (hc : c.legal = true) (d : Dir) (e : Bool) {r : Rffe}
    (hr : r < 2 ^ c.rffeBits) : c.withEnable d e r < 2 ^ c.rffeBits := by
  obtain ⟨hen, -⟩ := Cfg.legal_rffeFields hc
  exact Machine.setNatField_lt _ hr (hen d)

namespace Machine

theorem moduleRffe_lt {c : Cfg} (hc : c.legal = true) (d : Dir) (e : Bool) (b : Band) {r : Rffe}
    (hr : r < 2 ^ c.rffeBits) : moduleRffe c d e b r < 2 ^ c.rffeBits :=
  Cfg.withAntenna_lt hc d b (Cfg.withEnable_lt hc d e hr)

/-- What a part of a command that began in `s` and stands in `t` has kept: the configuration, the
command port and, if `s` had it, the invariant. -/
structure Kept (s t : State) : Prop where
  cfg : t.cfg = s.cfg
  pending : t.pending = s.pending
  inv : s.Inv → t.Inv

namespace Kept

variable {s t u : State}

theorem refl (s : State) : Kept s s :=
  ⟨rfl, rfl, id⟩

/-- An update of any other field keeps all of it. -/
theorem of_eq (h : Kept s t) (hcfg : u.cfg = t.cfg) (hpending : u.pending = t.pending)
    (hfe : u.fe = t.fe) (hrffe : u.rffe = t.rffe) : Kept s u where
  cfg := hcfg.trans h.cfg
  pending := hpending.trans h.pending
  inv hs := by
    obtain ⟨hlegal, hcanon, hinside, hfits⟩ := h.inv hs
    constructor <;> simpa only [hcfg, hfe, hrffe]

theorem after (h : Kept s t) (cs : List Call) : Kept s (t.after cs) :=
  h.of_eq rfl rfl rfl rfl

theorem respond (h : Kept s t) (status : BitVec 32) (result : BitVec 64) :
    Kept s (t.respond status result) :=
  h.of_eq rfl rfl rfl rfl

theorem advanceTo (h : Kept s t) (b : BoardState) : Kept s (t.advanceTo b) :=
  h.of_eq (t.advanceTo_cfg b) (t.advanceTo_pending b) (t.advanceTo_fe b) (t.advanceTo_rffe b)

theorem setFe (h : Kept s t) {a : RegAddr} (ha : t.cfg.feHas a = true) (v : Byte) :
    Kept s (t.setFe a v) where
  cfg := h.cfg
  pending := h.pending
  inv hs :=
    have ht := h.inv hs
    ⟨ht.cfgLegal, feWf_fePut ht.feCanonical _ _,
      feWithin_fePut ht.feInside (Cfg.feHas_iff.mp ha) _, ht.rffeFits⟩

theorem freeFe (h : Kept s t) {a : RegAddr} (ha : t.cfg.feHas a = true) : Kept s (t.freeFe a) :=
  (h.setFe ha _).of_eq rfl rfl rfl rfl

theorem freeFeOutside (h : Kept s t) (keep : Nat → Byte) : Kept s (t.freeFeOutside keep) where
  cfg := h.cfg
  pending := h.pending
  inv hs :=
    have ht := h.inv hs
    ⟨ht.cfgLegal, feWf_feRefresh _ _ _ _, feWithin_feRefresh _ _ _ _, ht.rffeFits⟩

theorem withRffe (h : Kept s t) {v : Rffe} (hv : s.Inv → v < 2 ^ s.cfg.rffeBits) :
    Kept s (t.withRffe v) where
  cfg := h.cfg
  pending := h.pending
  inv hs :=
    have ht := h.inv hs
    ⟨ht.cfgLegal, ht.feCanonical, ht.feInside, h.cfg.symm ▸ hv hs⟩

theorem freeRffe (h : Kept s t) : Kept s t.freeRffe :=
  (h.withRffe fun _ => h.cfg ▸ Nat.mod_lt _ (Nat.two_pow_pos _)).of_eq rfl rfl rfl rfl

/-! The compound updates. -/

theorem constructFrontEnd (h : Kept s t) : Kept s (constructFrontEnd t) :=
  (h.freeFeOutside fun _ => 0).of_eq (constructFrontEnd_cfg t) (constructFrontEnd_pending t)
    (constructFrontEnd_fe t) (constructFrontEnd_rffe t)

theorem freeCollaborators (h : Kept s t) : Kept s t.freeCollaborators :=
  (h.freeRffe.freeFeOutside fun _ => 0).of_eq t.freeCollaborators_cfg t.freeCollaborators_pending
    t.freeCollaborators_fe t.freeCollaborators_rffe

theorem opaqueWritten (h : Kept s t) : Kept s t.opaqueWritten :=
  (h.freeFeOutside t.heldWhole).of_eq t.opaqueWritten_cfg t.opaqueWritten_pending t.opaqueWritten_fe
    t.opaqueWritten_rffe

theorem phyLoop (h : Kept s t) : Kept s t.phyLoop := by
  unfold State.phyLoop
  split
  · exact h.freeFeOutside t.heldBits
  · exact h.freeFeOutside fun _ => 0

end Kept

/-! Parts of a command. -/

/-- A part of a command that began in `s` ends in a state that keeps what `Kept` says, with a value that
has `Q` where it is done; and it stops the machine only under an illegal configuration. This is
`Res.leaves (Kept s)` with the value and the fault, of which `Res.leaves` says nothing. -/
def Res.Keeps {α : Type} (s : State) (Q : α → Prop) : Res α → Prop
  | .done a t => Kept s t ∧ Q a
  | .raised _ t => Kept s t
  | .fault _ => s.cfg.legal ≠ true

section Parts

variable {α β : Type} {s t : State} {Q : α → Prop} {R : β → Prop}

theorem Res.Keeps.bind {r : Res α} {k : α → State → Res β} (hr : r.Keeps s Q)
    (hk : ∀ a u, Kept s u → Q a → (k a u).Keeps s R) : (r.bind k).Keeps s R := by
  cases r with
  | done a u => exact hk a u hr.1 hr.2
  | raised e u => exact hr
  | fault f => exact hr

theorem Res.keeps_done {a : α} (h : Kept s t) (ha : Q a) : (Res.done a t).Keeps s Q :=
  ⟨h, ha⟩

/-! The checks. -/

theorem gate_keeps {min : BoardState} {k : State → Res α} (h : Kept s t) (hk : (k t).Keeps s Q) :
    (gate min t k).Keeps s Q := by
  unfold gate
  split
  · exact h
  · exact hk

theorem withChan_keeps {ch : BitVec 8} {k : Chan → State → Res α} (h : Kept s t)
    (hk : ∀ c, (k c t).Keeps s Q) : (withChan ch t k).Keeps s Q := by
  unfold withChan
  split
  · exact hk _
  · exact h

theorem withKind_keeps {kind : BitVec 8} {k : Kind → State → Res α} (h : Kept s t)
    (hk : ∀ c, (k c t).Keeps s Q) : (withKind kind t k).Keeps s Q := by
  unfold withKind
  split
  · exact hk _
  · exact h

theorem require_keeps {ok : Bool} {e : Err} {k : State → Res α} (h : Kept s t)
    (hk : ok = true → (k t).Keeps s Q) : (require ok e t k).Keeps s Q := by
  unfold require
  split
  · exact hk ‹_›
  · exact h

theorem withRegister_keeps {addr : RegAddr} {k : State → Res α} (h : Kept s t)
    (hk : s.cfg.feHas addr = true → (k t).Keeps s Q) : (withRegister addr t k).Keeps s Q :=
  gate_keeps h (require_keeps h fun ha => hk (h.cfg ▸ ha))

/-! The primitives. -/

theorem callWith_keeps {c : Call} {ok bad : State → State} (hok : Kept s (ok (t.after [c])))
    (hbad : Kept s (bad (t.after [c]))) : (callWith c ok bad t).Keeps s fun _ => True := by
  unfold callWith
  split
  · exact hbad
  · exact ⟨hok, trivial⟩

theorem callRead_keeps (c : Call) (h : Kept s t) : (callRead c t).Keeps s fun _ => True :=
  callWith_keeps (h.after [c]) (h.after [c])

theorem spiRead_keeps {a : RegAddr} (h : Kept s t)
    (ha : s.cfg.legal = true → s.cfg.feHas a = true) : (spiRead a t).Keeps s fun _ => True := by
  unfold spiRead
  split
  · exact (callRead_keeps _ h).bind fun _ u hu _ => Res.keeps_done hu trivial
  · next hout => exact fun hs => hout (h.cfg ▸ ha hs)

theorem spiWrite_keeps {a : RegAddr} (v : Byte) (h : Kept s t)
    (ha : s.cfg.legal = true → s.cfg.feHas a = true) : (spiWrite a v t).Keeps s fun _ => True := by
  unfold spiWrite
  split
  · next hin => exact callWith_keeps ((h.after _).setFe hin v) ((h.after _).freeFe hin)
  · next hout => exact fun hs => hout (h.cfg ▸ ha hs)

/-- What `RffeRead` reads fits the register, so the value written back does. -/
theorem rffeRead_keeps (h : Kept s t) :
    (rffeRead t).Keeps s fun r => s.Inv → r < 2 ^ s.cfg.rffeBits :=
  (callRead_keeps _ h).bind fun _ _ hu _ =>
    Res.keeps_done hu fun hs => hu.cfg ▸ (hu.inv hs).rffeFits

theorem rffeWrite_keeps {v : Rffe} (h : Kept s t) (hv : s.Inv → v < 2 ^ s.cfg.rffeBits) :
    (rffeWrite v t).Keeps s fun _ => True :=
  callWith_keeps ((h.after _).withRffe hv) (h.after _).freeRffe

theorem phyGetPort_keeps (d : Dir) (h : Kept s t) : (phyGetPort d t).Keeps s fun _ => True :=
  (callRead_keeps _ h).bind fun _ _ hu _ => Res.keeps_done hu trivial

theorem phySetPort_keeps (d : Dir) (p : PortId) (h : Kept s t) :
    (phySetPort d p t).Keeps s fun _ => True :=
  callWith_keeps (h.of_eq rfl rfl rfl rfl) (h.of_eq rfl rfl rfl rfl)

theorem phyGetLo_keeps (d : Dir) (h : Kept s t) : (phyGetLo d t).Keeps s fun _ => True :=
  (callRead_keeps _ h).bind fun _ _ hu _ => Res.keeps_done hu trivial

theorem phySetLo_keeps (d : Dir) (f : Freq) (h : Kept s t) :
    (phySetLo d f t).Keeps s fun _ => True :=
  callWith_keeps (h.of_eq rfl rfl rfl rfl) (h.of_eq rfl rfl rfl rfl)

theorem backendEnable_keeps (d : Dir) (e : Bool) (h : Kept s t) :
    (backendEnable d e t).Keeps s fun _ => True :=
  callWith_keeps (h.of_eq rfl rfl rfl rfl) (h.of_eq rfl rfl rfl rfl)

theorem Kept.streamTeardown (d : Dir) (h : Kept s t) : Kept s (streamTeardown d t) :=
  h.of_eq rfl rfl rfl rfl

/-! The routines commands share. -/

theorem selectBand_keeps (ch : Chan) (f : Freq) (h : Kept s t) :
    (selectBand ch f t).Keeps s fun _ => True := by
  unfold selectBand
  refine (rffeRead_keeps h).bind fun r u hu hr => ?_
  refine (phySetPort_keeps _ _ hu).bind fun _ w hw _ => ?_
  refine rffeWrite_keeps hw fun hs => ?_
  rw [hw.cfg]
  exact Cfg.withAntenna_lt hs.cfgLegal _ _ (hr hs)

theorem primeBand_keeps (ch : Chan) (h : Kept s t) : (primeBand ch t).Keeps s fun _ => True :=
  (phyGetLo_keeps _ h).bind fun _ _ hu _ => selectBand_keeps ch _ hu

theorem forceSet_keeps (ch : Chan) (kind : Kind) (b : CorrBand) (h : Kept s t) :
    (forceSet ch kind b t).Keeps s fun _ => True := by
  have hreg (hs : s.cfg.legal = true) := Cfg.legal_forceReg hs ch
  refine (spiRead_keeps h ?_).bind fun _ u hu _ => spiWrite_keeps _ hu ?_
  · rwa [h.cfg]
  · rwa [hu.cfg]

theorem corrBandNow_keeps (d : Dir) (h : Kept s t) : (corrBandNow d t).Keeps s fun _ => True := by
  unfold corrBandNow
  refine (phyGetPort_keeps d h).bind fun p u hu _ => ?_
  cases u.cfg.corrBandOfPort d p with
  | some b => exact ⟨hu, trivial⟩
  | none => exact hu

theorem readCorr_keeps {slot : Slot} (b : CorrBand) (h : Kept s t)
    (hslot : s.cfg.legal = true → s.cfg.slotLegal slot = true) :
    (readCorr slot b t).Keeps s fun _ => True := by
  cases slot with
  | single e =>
    refine (spiRead_keeps h fun hs => (Cfg.slotLegal_single (hslot hs)).1 b).bind
      fun _ u hu _ => ⟨hu, trivial⟩
  | pair e =>
    have hregs hs := (Cfg.slotLegal_pair (hslot hs)).1 b
    exact (spiRead_keeps h fun hs => (hregs hs).1).bind fun _ u hu _ =>
      (spiRead_keeps hu fun hs => (hregs hs).2).bind fun _ w hw _ => ⟨hw, trivial⟩

theorem writeCorr_keeps {slot : Slot} (b : CorrBand) (v : BitVec 16) (h : Kept s t)
    (hslot : s.cfg.legal = true → s.cfg.slotLegal slot = true) :
    (writeCorr slot b v t).Keeps s fun _ => True := by
  cases slot with
  | single e => exact spiWrite_keeps _ h fun hs => (Cfg.slotLegal_single (hslot hs)).1 b
  | pair e =>
    have hregs hs := (Cfg.slotLegal_pair (hslot hs)).1 b
    have htop hs := (hregs hs).1
    have hbot hs := (hregs hs).2
    exact (spiRead_keeps h htop).bind fun _ u hu _ =>
      (spiRead_keeps hu hbot).bind fun _ w hw _ =>
      (spiWrite_keeps _ hw htop).bind fun _ x hx _ => spiWrite_keeps _ hx hbot

end Parts

/-! Whole commands. -/

/-- A command that began in `s` answers: the next state keeps what `Kept` says and shows one response,
success with a result that has `Q`, or an error code with the result 0; it stops the machine only under
an illegal configuration, and it is never refused (30_encoding rule R86). -/
def Answered (s : State) (Q : BitVec 64 → Prop) : Host.Outcome State Fault Refusal → Prop
  | .next t => Kept s t ∧ ∃ r, t.response = some r
      ∧ (r.status = 0 ∧ Q r.result ∨ ∃ e, r = ⟨s.cfg.errCode e, 0⟩)
  | .fault _ => s.cfg.legal ≠ true
  | .refused _ => False

section Commands

variable {s t : State} {Q : BitVec 64 → Prop}

theorem answer_answered {r : Res (BitVec 64)} (hr : r.Keeps s Q) : Answered s Q (answer r) := by
  cases r with
  | done v u => exact ⟨hr.1.respond 0 v, _, rfl, .inl ⟨rfl, hr.2⟩⟩
  | raised e u =>
    have hu : Kept s u := hr
    exact ⟨hu.respond _ 0, _, rfl, .inr ⟨e, by rw [hu.cfg]⟩⟩
  | fault f => exact hr

theorem Answered.mono {R : BitVec 64 → Prop} {o : Host.Outcome State Fault Refusal}
    (ho : Answered s Q o) (h : ∀ v, Q v → R v) : Answered s R o := by
  cases o with
  | next t =>
    obtain ⟨ht, r, hr, hok | herr⟩ := ho
    · exact ⟨ht, r, hr, .inl ⟨hok.1, h _ hok.2⟩⟩
    · exact ⟨ht, r, hr, .inr herr⟩
  | fault f => exact ho
  | refused f => exact ho

theorem execFwDetected_answered (h : Kept s t) : Answered s (· = 0) (execFwDetected t) :=
  answer_answered ⟨h.advanceTo _, rfl⟩

theorem execFpgaLoaded_answered (h : Kept s t) : Answered s (· = 0) (execFpgaLoaded t) :=
  answer_answered <| gate_keeps h ⟨(h.advanceTo _).freeRffe.of_eq rfl rfl rfl rfl, rfl⟩

theorem execInit_answered (h : Kept s t) : Answered s (· = 0) (execInit t) := by
  refine answer_answered <| gate_keeps h ?_
  refine (rffeWrite_keeps h fun hs => ?_).bind fun _ u hu _ => ?_
  · rw [h.cfg]
    exact (Cfg.legal_rffeInit hs.cfgLegal).1
  · exact (primeBand_keeps .rx1 hu.constructFrontEnd).bind fun _ w hw _ =>
      (primeBand_keeps .tx1 hw).bind fun _ x hx _ => ⟨hx.of_eq rfl rfl rfl rfl, rfl⟩

theorem execClose_answered (h : Kept s t) : Answered s (· = 0) (execClose t) :=
  answer_answered ⟨h.freeCollaborators.of_eq rfl rfl rfl rfl, rfl⟩

theorem execSelectBand_answered (ch : BitVec 8) (f : Freq) (h : Kept s t) :
    Answered s (· = 0) (execSelectBand ch f t) :=
  answer_answered <| gate_keeps h <| withChan_keeps h fun c =>
    (selectBand_keeps c f h).bind fun _ _ hu _ => ⟨hu, rfl⟩

theorem execSetFrequency_answered (ch : BitVec 8) (f : Freq) (h : Kept s t) :
    Answered s (· = 0) (execSetFrequency ch f t) :=
  answer_answered <| gate_keeps h <| withChan_keeps h fun c => require_keeps h fun _ =>
    (phySetLo_keeps c.dir f h).bind fun _ _ hu _ =>
    (selectBand_keeps c f hu).bind fun _ _ hw _ => ⟨hw, rfl⟩

theorem execSetRfPort_answered (ch : BitVec 8) (p : PortId) (h : Kept s t) :
    Answered s (· = 0) (execSetRfPort ch p t) :=
  answer_answered <| gate_keeps h <| withChan_keeps h fun c => require_keeps h fun _ =>
    (phySetPort_keeps c.dir p h).bind fun _ _ hu _ => ⟨hu, rfl⟩

theorem execGetRfPort_answered (ch : BitVec 8) (h : Kept s t) :
    Answered s (fun _ => True) (execGetRfPort ch t) :=
  answer_answered <| gate_keeps h <| withChan_keeps h fun c =>
    (phyGetPort_keeps c.dir h).bind fun _ _ hu _ => require_keeps hu fun _ => ⟨hu, trivial⟩

theorem execGetCorrection_answered (ch kind : BitVec 8) (h : Kept s t) :
    Answered s (fun _ => True) (execGetCorrection ch kind t) := by
  refine answer_answered <| gate_keeps h <| withChan_keeps h fun c => withKind_keeps h fun k => ?_
  refine (corrBandNow_keeps c.dir h).bind fun b u hu _ => ?_
  refine (readCorr_keeps b hu fun hs => ?_).bind fun _ _ hw _ => ⟨hw, trivial⟩
  rw [hu.cfg]
  exact Cfg.legal_slotLegal hs c k

theorem execSetCorrection_answered (ch kind : BitVec 8) (v : BitVec 16) (h : Kept s t) :
    Answered s (· = 0) (execSetCorrection ch kind v t) := by
  refine answer_answered <| gate_keeps h <| withChan_keeps h fun c => withKind_keeps h fun k => ?_
  refine (corrBandNow_keeps c.dir h).bind fun b u hu _ => ?_
  refine (writeCorr_keeps b v hu fun hs => ?_).bind fun _ _ hw _ =>
    (forceSet_keeps c k b hw).bind fun _ _ hx _ => ⟨hx, rfl⟩
  rw [hu.cfg]
  exact Cfg.legal_slotLegal hs c k

theorem execEnableModule_answered (ch : BitVec 8) (h : Kept s t) :
    Answered s (· = 0) (execEnableModule ch t) := by
  refine answer_answered <| gate_keeps h <| withChan_keeps h fun c => ?_
  refine (phyGetLo_keeps c.dir h).bind fun f u hu _ => ?_
  refine (phySetPort_keeps _ _ hu).bind fun _ w hw _ => ?_
  refine (rffeRead_keeps hw).bind fun r x hx hr => ?_
  refine (rffeWrite_keeps hx fun hs => ?_).bind fun _ _ hy _ =>
    (backendEnable_keeps c.dir true hy).bind fun _ _ hz _ => ⟨hz, rfl⟩
  rw [hx.cfg]
  exact moduleRffe_lt hs.cfgLegal _ _ _ (hr hs)

theorem execDisableModule_answered (ch : BitVec 8) (h : Kept s t) :
    Answered s (· = 0) (execDisableModule ch t) := by
  refine answer_answered <| gate_keeps h <| withChan_keeps h fun c => ?_
  refine (rffeRead_keeps (h.streamTeardown c.dir)).bind fun r u hu hr => ?_
  refine (rffeWrite_keeps hu fun hs => ?_).bind fun _ _ hw _ =>
    (backendEnable_keeps c.dir false hw).bind fun _ _ hx _ => ⟨hx, rfl⟩
  rw [hu.cfg]
  exact moduleRffe_lt hs.cfgLegal _ _ _ (hr hs)

theorem execSyncConfig_answered (ch : BitVec 8) (h : Kept s t) :
    Answered s (· = 0) (execSyncConfig ch t) :=
  answer_answered <| gate_keeps h <| withChan_keeps h fun _ => ⟨h.of_eq rfl rfl rfl rfl, rfl⟩

theorem execRegRead_answered (a : RegAddr) (h : Kept s t) :
    Answered s (fun _ => True) (execRegRead a t) :=
  answer_answered <| withRegister_keeps h fun ha =>
    (spiRead_keeps h fun _ => ha).bind fun _ _ hu _ => ⟨hu, trivial⟩

theorem execRegWrite_answered (a : RegAddr) (v : Byte) (h : Kept s t) :
    Answered s (· = 0) (execRegWrite a v t) := by
  refine answer_answered <| withRegister_keeps h fun ha =>
    (spiWrite_keeps v h fun _ => ha).bind fun _ u hu _ => ⟨?_, rfl⟩
  split
  · exact hu
  · exact hu.opaqueWritten

/-- What any command does to the state it finds, and what its response shows. -/
theorem exec_answered (i : Instr) (h : Kept s t) :
    Answered s (fun v => i.returnsResult = false → v = 0) (exec i t) := by
  cases i with
  | fwDetected => exact (execFwDetected_answered h).mono fun _ hv _ => hv
  | fpgaLoaded => exact (execFpgaLoaded_answered h).mono fun _ hv _ => hv
  | init => exact (execInit_answered h).mono fun _ hv _ => hv
  | close => exact (execClose_answered h).mono fun _ hv _ => hv
  | selectBand ch f => exact (execSelectBand_answered ch f h).mono fun _ hv _ => hv
  | setFrequency ch f => exact (execSetFrequency_answered ch f h).mono fun _ hv _ => hv
  | setRfPort ch p => exact (execSetRfPort_answered ch p h).mono fun _ hv _ => hv
  | getRfPort ch => exact (execGetRfPort_answered ch h).mono fun _ _ hi => nomatch hi
  | getCorrection ch k => exact (execGetCorrection_answered ch k h).mono fun _ _ hi => nomatch hi
  | setCorrection ch k v => exact (execSetCorrection_answered ch k v h).mono fun _ hv _ => hv
  | enableModule ch => exact (execEnableModule_answered ch h).mono fun _ hv _ => hv
  | disableModule ch => exact (execDisableModule_answered ch h).mono fun _ hv _ => hv
  | syncConfig ch => exact (execSyncConfig_answered ch h).mono fun _ hv _ => hv
  | regRead a => exact (execRegRead_answered a h).mono fun _ _ hi => nomatch hi
  | regWrite a v => exact (execRegWrite_answered a v h).mono fun _ hv _ => hv

theorem illegalOp_answered (h : Kept s t) : Answered s Q (illegalOp t) :=
  answer_answered h

end Commands

/-! The step. -/

section Step

variable {s t : State} {c : Command} {rest : List Command}

theorem step_of_pending_nil (h : s.pending = []) : step s = .next s := by
  rw [step, h]

theorem step_of_decode_ok {i : Instr} (h : s.pending = c :: rest) (hi : decode c = .ok i) :
    step s = exec i s.commandStart := by
  simp only [step, h, hi]

theorem step_of_decode_error {e : DecodeError} (h : s.pending = c :: rest)
    (he : decode c = .error e) : step s = illegalOp s.commandStart := by
  simp only [step, h, he]

theorem State.Inv.taken (h : s.Inv) : s.taken.Inv :=
  ⟨h.cfgLegal, h.feCanonical, h.feInside, h.rffeFits⟩

theorem Kept.commandStart (s : State) : Kept s.taken s.commandStart :=
  (Kept.refl s.taken).phyLoop

/-- A step with a command pending, decodable or not: it keeps what `Kept` says of the state with the
command taken, and gives the command's response. -/
theorem step_answered (h : s.pending = c :: rest) :
    Answered s.taken (fun v => (∀ i, decode c = .ok i → i.returnsResult = false) → v = 0)
      (step s) := by
  cases hd : decode c with
  | ok i =>
    rw [step_of_decode_ok h hd]
    exact (exec_answered i (.commandStart s)).mono fun v hv hall => hv (hall i rfl)
  | error e =>
    rw [step_of_decode_error h hd]
    exact illegalOp_answered (.commandStart s)

/-- The two kinds of a step that answers. -/
theorem step_eq_next (h : step s = .next t) : t = s ∨ Kept s.taken t := by
  cases hp : s.pending with
  | nil =>
    rw [step_of_pending_nil hp] at h
    cases h
    exact .inl rfl
  | cons c rest =>
    have ha := step_answered hp
    rw [h] at ha
    exact .inr ha.1

end Step

/-! The obligations. -/

/-- Settles O10: every update a command makes keeps the invariant (`Kept`), and so does the step. -/
theorem stepKeepsInvariant : Obligations.StepKeepsInvariant := by
  intro s t hs hstep
  rcases step_eq_next hstep with rfl | hkept
  · exact hs
  · exact hkept.inv hs.taken

/-- Settles O9: under a legal configuration `step_answered` leaves only the answering case. -/
theorem everyCommandAnswers : Obligations.EveryCommandAnswers := by
  intro s c rest hlegal hp
  have ha := step_answered hp
  cases ho : step s with
  | next t =>
    rw [ho] at ha
    obtain ⟨hkept, r, hr, ⟨hstatus, hzero⟩ | ⟨e, rfl⟩⟩ := ha
    · exact ⟨t, r, rfl, hr, hkept.pending.trans (by simp [hp]), .inl hstatus, hzero⟩
    · exact ⟨t, _, rfl, hr, hkept.pending.trans (by simp [hp]), .inr ⟨e, rfl⟩, fun _ => rfl⟩
  | fault f =>
    rw [ho] at ha
    exact absurd hlegal ha
  | refused f =>
    rw [ho] at ha
    exact ha.elim

/-- Settles O12, as a part of what every step keeps. -/
theorem stepKeepsConfiguration : Obligations.StepKeepsConfiguration := by
  intro s t hstep
  rcases step_eq_next hstep with rfl | hkept
  · rfl
  · exact hkept.cfg

/-- Settles O6, the first branch of the step. -/
theorem stepWithoutCommandStays : Obligations.StepWithoutCommandStays :=
  fun _ => step_of_pending_nil

/-- Settles O11: the four clauses at the reset values (log 3 and log 4). -/
theorem invariantAtReset : Obligations.InvariantAtReset where
  cfgLegal := by decide
  feCanonical := rfl
  feInside := rfl
  rffeFits := Nat.two_pow_pos _

end Machine

end Sys2Proof
end

-- The fields of the RFFE register, bit by bit, and the statement on writing one of them.
section
/-!
SUPPORT and PROOFS. What reading the enable bit or the antenna field of a direction gives after either
has been written in the same or the other direction (10_state rule R24), and
`RffeFieldsAreWrittenAlone`.
-/

namespace Sys2Proof

section RffeFields

variable {c : Cfg} {d d' : Dir} (b : Band) (e : Bool) (r : Rffe)

/-! What a legal configuration's fields read after a write, each write apart. -/

theorem Cfg.antennaIn_withAntenna (hc : c.legal = true) :
    c.antennaIn d (c.withAntenna d b r) = c.antCodeOf d b := by
  rw [Cfg.antennaIn, Cfg.withAntenna, Machine.natField_setNatField]
  exact Nat.mod_eq_of_lt (Cfg.legal_antCode hc d b)

theorem Cfg.antennaIn_withAntenna_ne (hc : c.legal = true) (hd : d' ≠ d) :
    c.antennaIn d' (c.withAntenna d b r) = c.antennaIn d' r := by
  obtain ⟨-, -, -, -, hapart⟩ := Cfg.legal_rffeFields hc
  exact Machine.natField_setNatField_apart _ _ (hapart d d' hd.symm)

theorem Cfg.enabledIn_withAntenna (hc : c.legal = true) :
    c.enabledIn d' (c.withAntenna d b r) = c.enabledIn d' r := by
  obtain ⟨-, -, -, hapart, -⟩ := Cfg.legal_rffeFields hc
  have hbit := hapart d' d
  rw [Cfg.enabledIn, Cfg.withAntenna, Machine.testBit_setNatField, if_neg (by omega)]
  rfl

theorem Cfg.antennaIn_withEnable (hc : c.legal = true) :
    c.antennaIn d' (c.withEnable d e r) = c.antennaIn d' r := by
  obtain ⟨-, -, -, hapart, -⟩ := Cfg.legal_rffeFields hc
  have hbit := hapart d d'
  exact Machine.natField_setNatField_apart _ _ (by omega)

@[simp] theorem Cfg.enabledIn_withEnable : c.enabledIn d (c.withEnable d e r) = e := by
  simp [Cfg.enabledIn, Cfg.withEnable, Machine.testBit_setNatBit]

theorem Cfg.enabledIn_withEnable_ne (hc : c.legal = true) (hd : d' ≠ d) :
    c.enabledIn d' (c.withEnable d e r) = c.enabledIn d' r := by
  obtain ⟨-, -, hne, -, -⟩ := Cfg.legal_rffeFields hc
  have hbits : c.enBit.get d' ≠ c.enBit.get d :=
    match d, d', hd with
    | .rx, .tx, _ => hne.symm
    | .tx, .rx, _ => hne
  rw [Cfg.enabledIn, Cfg.withEnable, Machine.testBit_setNatBit, if_neg hbits]
  rfl

/-- Writing the enable bit that stands there changes nothing. -/
theorem Cfg.withEnable_enabledIn : c.withEnable d (c.enabledIn d r) r = r := by
  apply Nat.eq_of_testBit_eq
  intro i
  rw [Cfg.withEnable, Machine.testBit_setNatBit]
  split
  · next hi => rw [hi]; rfl
  · rfl

end RffeFields

/-- Settles O47: each field reads what was written, and the fields of a legal `Cfg` lie apart. -/
theorem rffeFieldsAreWrittenAlone : Obligations.RffeFieldsAreWrittenAlone := by
  intro c d b e r hc
  refine ⟨Cfg.antennaIn_withAntenna b r hc, fun i hi => ?_, Cfg.enabledIn_withEnable e r,
    fun i hi => ?_, fun d' => ⟨Cfg.enabledIn_withAntenna b r hc, Cfg.antennaIn_withEnable e r hc⟩⟩
  · rw [Cfg.withAntenna, Machine.testBit_setNatField, if_neg (by omega)]
  · rw [Cfg.withEnable, Machine.testBit_setNatBit, if_neg hi]

end Sys2Proof
end

-- Which fields of the state a command can write, and the statements on what it leaves alone.
section
/-!
SUPPORT and PROOFS. One table of the fields each command can write (`Instr.writes`, 10_state rule R20),
the proof that a command leaves every other field as it found it, whether it succeeds or fails
(`exec_sameBut`), and what follows: `FieldsChangedOnlyByTheirCommands`, `BoardStateMovesForward`.
-/

namespace Sys2Proof

theorem PerDir.eq_of_get {α : Type} {t u : PerDir α} (h : ∀ d, t.get d = u.get d) : t = u := by
  cases t
  cases u
  exact congrArg₂ PerDir.mk (h .rx) (h .tx)

/-- A field of the record `S` (10_state rule R20), the fields with a direction one direction at a
time. -/
inductive StateField where
  | bstate
  | rffe
  | fe
  | port (d : Dir)
  | loFreq (d : Dir)
  | modEn (d : Dir)
  | syncHandle (d : Dir)

/-- The fields a command with the channel operand `ch` writes: those of the channel's direction, none
when there is no such channel. Irreducible, so that `onChan ch ?w` unifies by its arguments. -/
@[irreducible] def onChan (ch : BitVec 8) (w : Dir → List StateField) : List StateField :=
  match Chan.ofCode ch with
  | some c => w c.dir
  | none => []

theorem onChan_of_some {ch : BitVec 8} {c : Chan} (h : Chan.ofCode ch = some c)
    (w : Dir → List StateField) : onChan ch w = w c.dir := by
  rw [onChan, h]

theorem mem_onChan {ch : BitVec 8} {w : Dir → List StateField} {f : StateField} :
    f ∈ onChan ch w ↔ ∃ c, Chan.ofCode ch = some c ∧ f ∈ w c.dir := by
  unfold onChan
  split <;> simp_all

/-- Every field the front end holds (10_state rules R26 and R29). -/
@[simp] def frontEndFields : List StateField :=
  [.fe, .port .rx, .port .tx, .loFreq .rx, .loFreq .tx]

/-- The fields a command can write. -/
def Instr.writes : Instr → List StateField
  | .fwDetected => [.bstate]
  | .fpgaLoaded => [.bstate, .rffe, .modEn .rx, .modEn .tx]
  | .init => .bstate :: .rffe :: frontEndFields
  | .close => .bstate :: .rffe :: frontEndFields
      ++ [.modEn .rx, .modEn .tx, .syncHandle .rx, .syncHandle .tx]
  | .selectBand ch _ => onChan ch fun d => [.rffe, .port d]
  | .setFrequency ch _ => onChan ch fun d => [.loFreq d, .rffe, .port d]
  | .setRfPort ch _ => onChan ch fun d => [.port d]
  | .getRfPort _ => []
  | .getCorrection _ _ => []
  | .setCorrection _ _ _ => [.fe]
  | .enableModule ch => onChan ch fun d => [.port d, .rffe, .modEn d]
  | .disableModule ch => onChan ch fun d => [.syncHandle d, .rffe, .modEn d]
  | .syncConfig ch => onChan ch fun d => [.syncHandle d]
  | .regRead _ => []
  | .regWrite _ _ => frontEndFields

namespace Machine

/-- The field has the same value in both states. -/
def StateField.Same (s t : State) : StateField → Prop
  | .bstate => t.bstate = s.bstate
  | .rffe => t.rffe = s.rffe
  | .fe => t.fe = s.fe
  | .port d => t.port.get d = s.port.get d
  | .loFreq d => t.loFreq.get d = s.loFreq.get d
  | .modEn d => t.modEn.get d = s.modEn.get d
  | .syncHandle d => t.syncHandle.get d = s.syncHandle.get d

/-- Every field outside `w` has in `t` the value it has in `s`. -/
def SameBut (w : List StateField) (s t : State) : Prop :=
  ∀ f, f ∉ w → StateField.Same s t f

namespace SameBut

variable {s t u : State} {w v : List StateField}

theorem refl (s : State) : SameBut w s s := by
  intro f _
  cases f <;> rfl

theorem trans (h : SameBut w s t) (h' : SameBut w t u) : SameBut w s u := by
  intro f hf
  have h₁ := h f hf
  have h₂ := h' f hf
  cases f <;> exact h₂.trans h₁

theorem mono (h : SameBut v s t) (hv : v ⊆ w) : SameBut w s t :=
  fun f hf => h f fun hm => hf (hv hm)

/-- An update of the fields `v` alone leaves the rest as it is. -/
theorem step (h : SameBut w s t) (hu : SameBut v t u) (hv : v ⊆ w) : SameBut w s u :=
  h.trans (hu.mono hv)

/-- An update that writes no field of `S`. -/
theorem of_none (h : SameBut w s t) (hu : SameBut [] t u) : SameBut w s u :=
  h.step hu (List.nil_subset w)

/-- An update of the one field `f`. -/
theorem of_one {f : StateField} (h : SameBut w s t) (hu : SameBut [f] t u) (hf : f ∈ w) :
    SameBut w s u :=
  h.step hu (by simpa using hf)

end SameBut

/-! What each update writes. -/

section Updates

variable (s : State)

theorem State.after_sameBut (cs : List Call) : SameBut [] s (s.after cs) := by
  intro f _
  cases f <;> rfl

theorem State.respond_sameBut (st : BitVec 32) (v : BitVec 64) : SameBut [] s (s.respond st v) := by
  intro f _
  cases f <;> rfl

theorem State.withBstate_sameBut (b : BoardState) : SameBut [.bstate] s (s.withBstate b) := by
  intro f hf
  cases f with
  | bstate => exact absurd (List.mem_singleton_self _) hf
  | _ => rfl

theorem State.advanceTo_sameBut (b : BoardState) : SameBut [.bstate] s (s.advanceTo b) := by
  unfold State.advanceTo
  split
  · exact s.withBstate_sameBut b
  · exact .refl s

theorem State.withRffe_sameBut (r : Rffe) : SameBut [.rffe] s (s.withRffe r) := by
  intro f hf
  cases f with
  | rffe => exact absurd (List.mem_singleton_self _) hf
  | _ => rfl

theorem State.freeRffe_sameBut : SameBut [.rffe] s s.freeRffe :=
  s.withRffe_sameBut _

theorem State.setFe_sameBut (a : RegAddr) (v : Byte) : SameBut [.fe] s (s.setFe a v) := by
  intro f hf
  cases f with
  | fe => exact absurd (List.mem_singleton_self _) hf
  | _ => rfl

theorem State.freeFe_sameBut (a : RegAddr) : SameBut [.fe] s (s.freeFe a) :=
  s.setFe_sameBut a _

theorem State.freeFeOutside_sameBut (keep : Nat → Byte) :
    SameBut [.fe] s (s.freeFeOutside keep) := by
  intro f hf
  cases f with
  | fe => exact absurd (List.mem_singleton_self _) hf
  | _ => rfl

theorem State.withPort_sameBut (d : Dir) (p : PortId) : SameBut [.port d] s (s.withPort d p) := by
  intro f hf
  cases f with
  | port e => exact PerDir.get_set_ne _ _ (by simpa using hf)
  | _ => rfl

theorem State.freePort_sameBut (d : Dir) : SameBut [.port d] s (s.freePort d) :=
  s.withPort_sameBut d _

theorem State.withLo_sameBut (d : Dir) (g : Freq) : SameBut [.loFreq d] s (s.withLo d g) := by
  intro f hf
  cases f with
  | loFreq e => exact PerDir.get_set_ne _ _ (by simpa using hf)
  | _ => rfl

theorem State.freeLo_sameBut (d : Dir) : SameBut [.loFreq d] s (s.freeLo d) :=
  s.withLo_sameBut d _

theorem State.withModEn_sameBut (d : Dir) (e : Bool) : SameBut [.modEn d] s (s.withModEn d e) := by
  intro f hf
  cases f with
  | modEn e => exact PerDir.get_set_ne _ _ (by simpa using hf)
  | _ => rfl

theorem State.freeModEn_sameBut (d : Dir) : SameBut [.modEn d] s (s.freeModEn d) :=
  s.withModEn_sameBut d _

theorem State.withHandle_sameBut (d : Dir) (e : Bool) :
    SameBut [.syncHandle d] s (s.withHandle d e) := by
  intro f hf
  cases f with
  | syncHandle e => exact PerDir.get_set_ne _ _ (by simpa using hf)
  | _ => rfl

theorem streamTeardown_sameBut (d : Dir) : SameBut [.syncHandle d] s (streamTeardown d s) :=
  s.withHandle_sameBut d false

/-! The compound updates: `INIT`'s construction, a write to an opaque register, `CLOSE`. -/

theorem constructFrontEnd_sameBut :
    SameBut frontEndFields s (constructFrontEnd s) := by
  unfold constructFrontEnd
  exact (SameBut.refl s)
    |>.of_one (State.freeFeOutside_sameBut _ _) (by simp)
    |>.of_one (State.freePort_sameBut _ .rx) (by simp)
    |>.of_one (State.freePort_sameBut _ .tx) (by simp)
    |>.of_one (State.withLo_sameBut _ .rx _) (by simp)
    |>.of_one (State.withLo_sameBut _ .tx _) (by simp)

theorem State.opaqueWritten_sameBut :
    SameBut frontEndFields s s.opaqueWritten := by
  unfold State.opaqueWritten
  exact (SameBut.refl s)
    |>.of_one (State.freeFeOutside_sameBut _ _) (by simp)
    |>.of_one (State.freePort_sameBut _ .rx) (by simp)
    |>.of_one (State.freePort_sameBut _ .tx) (by simp)
    |>.of_one (State.freeLo_sameBut _ .rx) (by simp)
    |>.of_one (State.freeLo_sameBut _ .tx) (by simp)

end Updates

/-! What each primitive and each shared routine can write, however it ends. -/

section Parts

variable {s t : State} {w : List StateField}

theorem spiRead_sameBut (a : RegAddr) (h : SameBut w s t) : (spiRead a t).leaves (SameBut w s) :=
  spiRead_leaves (h.of_none (t.after_sameBut _))

theorem rffeRead_sameBut (h : SameBut w s t) : (rffeRead t).leaves (SameBut w s) :=
  rffeRead_leaves (h.of_none (t.after_sameBut _))

theorem phyGetPort_sameBut (d : Dir) (h : SameBut w s t) : (phyGetPort d t).leaves (SameBut w s) :=
  phyGetPort_leaves (h.of_none (t.after_sameBut _))

theorem phyGetLo_sameBut (d : Dir) (h : SameBut w s t) : (phyGetLo d t).leaves (SameBut w s) :=
  phyGetLo_leaves (h.of_none (t.after_sameBut _))

/-- A call that writes its one target `f`, whether it succeeds or fails. -/
theorem callWith_sameBut {c : Call} {ok bad : State → State} {f : StateField} (h : SameBut w s t)
    (hf : f ∈ w) (hok : ∀ u, SameBut [f] u (ok u)) (hbad : ∀ u, SameBut [f] u (bad u)) :
    (callWith c ok bad t).leaves (SameBut w s) :=
  have hcall := h.of_none (t.after_sameBut [c])
  callWith_leaves (hcall.of_one (hok _) hf) (hcall.of_one (hbad _) hf)

theorem spiWrite_sameBut (a : RegAddr) (v : Byte) (h : SameBut w s t) (hw : .fe ∈ w) :
    (spiWrite a v t).leaves (SameBut w s) :=
  have hcall := h.of_none (t.after_sameBut [.spiWrite a v])
  spiWrite_leaves (fun _ => hcall.of_one (State.setFe_sameBut _ a v) hw)
    (fun _ => hcall.of_one (State.freeFe_sameBut _ a) hw)

theorem rffeWrite_sameBut (r : Rffe) (h : SameBut w s t) (hw : .rffe ∈ w) :
    (rffeWrite r t).leaves (SameBut w s) :=
  callWith_sameBut h hw (fun u => u.withRffe_sameBut r) fun u => u.freeRffe_sameBut

theorem phySetPort_sameBut (d : Dir) (p : PortId) (h : SameBut w s t) (hw : .port d ∈ w) :
    (phySetPort d p t).leaves (SameBut w s) :=
  callWith_sameBut h hw (fun u => u.withPort_sameBut d p) fun u => u.freePort_sameBut d

theorem phySetLo_sameBut (d : Dir) (g : Freq) (h : SameBut w s t) (hw : .loFreq d ∈ w) :
    (phySetLo d g t).leaves (SameBut w s) :=
  callWith_sameBut h hw (fun u => u.withLo_sameBut d g) fun u => u.freeLo_sameBut d

theorem backendEnable_sameBut (d : Dir) (e : Bool) (h : SameBut w s t) (hw : .modEn d ∈ w) :
    (backendEnable d e t).leaves (SameBut w s) :=
  callWith_sameBut h hw (fun u => u.withModEn_sameBut d e) fun u => u.freeModEn_sameBut d

theorem selectBand_sameBut (c : Chan) (f : Freq) (h : SameBut w s t) (hr : .rffe ∈ w)
    (hp : .port c.dir ∈ w) : (selectBand c f t).leaves (SameBut w s) :=
  Res.leaves_bind (rffeRead_sameBut h) fun _ _ _ hu =>
  Res.leaves_bind (phySetPort_sameBut _ _ hu hp) fun _ _ _ hx => rffeWrite_sameBut _ hx hr

theorem primeBand_sameBut (c : Chan) (h : SameBut w s t) (hr : .rffe ∈ w) (hp : .port c.dir ∈ w) :
    (primeBand c t).leaves (SameBut w s) :=
  Res.leaves_bind (phyGetLo_sameBut _ h) fun _ _ _ hu => selectBand_sameBut c _ hu hr hp

theorem corrBandNow_sameBut (d : Dir) (h : SameBut w s t) :
    (corrBandNow d t).leaves (SameBut w s) := by
  unfold corrBandNow
  refine Res.leaves_bind (phyGetPort_sameBut d h) fun p u _ hu => ?_
  cases u.cfg.corrBandOfPort d p <;> exact hu

theorem readCorr_sameBut (slot : Slot) (b : CorrBand) (h : SameBut w s t) :
    (readCorr slot b t).leaves (SameBut w s) := by
  cases slot with
  | single e => exact Res.leaves_bind (spiRead_sameBut _ h) fun _ _ _ hu => hu
  | pair e =>
    exact Res.leaves_bind (spiRead_sameBut _ h) fun _ _ _ hu =>
      Res.leaves_bind (spiRead_sameBut _ hu) fun _ _ _ hx => hx

theorem writeCorr_sameBut (slot : Slot) (b : CorrBand) (v : BitVec 16) (h : SameBut w s t)
    (hw : .fe ∈ w) : (writeCorr slot b v t).leaves (SameBut w s) := by
  cases slot with
  | single e => exact spiWrite_sameBut _ _ h hw
  | pair e =>
    exact Res.leaves_bind (spiRead_sameBut _ h) fun _ _ _ hu =>
      Res.leaves_bind (spiRead_sameBut _ hu) fun _ _ _ hx =>
      Res.leaves_bind (spiWrite_sameBut _ _ hx hw) fun _ _ _ hy => spiWrite_sameBut _ _ hy hw

theorem forceSet_sameBut (c : Chan) (k : Kind) (b : CorrBand) (h : SameBut w s t) (hw : .fe ∈ w) :
    (forceSet c k b t).leaves (SameBut w s) :=
  Res.leaves_bind (spiRead_sameBut _ h) fun _ _ _ hu => spiWrite_sameBut _ _ hu hw

end Parts

/-! Whole commands. -/

section Commands

variable {s t : State} {w : List StateField}

theorem answer_sameBut {r : Res (BitVec 64)} (h : answer r = .next t) (hr : r.leaves (SameBut w s)) :
    SameBut w s t := by
  obtain ⟨u, status, result, hu, rfl⟩ := answer_leaves hr h
  exact hu.of_none (u.respond_sameBut _ _)

/-- A command with a gate and a channel operand writes what it writes once past both. -/
theorem chanCommand_sameBut {min : BoardState} {ch : BitVec 8} {k : Chan → State → Res (BitVec 64)}
    {v : Dir → List StateField} (h : answer (gate min s fun s => withChan ch s k) = .next t)
    (hk : ∀ c, (k c s).leaves (SameBut (v c.dir) s)) : SameBut (onChan ch v) s t := by
  refine answer_sameBut h <| gate_leaves (.refl s) <| withChan_leaves (.refl s) fun c hc => ?_
  rw [onChan_of_some hc]
  exact hk c

theorem execFwDetected_sameBut (h : execFwDetected s = .next t) :
    SameBut Instr.fwDetected.writes s t :=
  answer_sameBut (r := .done 0 _) h (s.advanceTo_sameBut _)

theorem execFpgaLoaded_sameBut (h : execFpgaLoaded s = .next t) :
    SameBut Instr.fpgaLoaded.writes s t := by
  refine answer_sameBut h <| gate_leaves (.refl s) ?_
  exact (SameBut.refl s)
    |>.of_one (State.advanceTo_sameBut _ _) (by simp [Instr.writes])
    |>.of_one (State.freeRffe_sameBut _) (by simp [Instr.writes])
    |>.of_one (State.freeModEn_sameBut _ .rx) (by simp [Instr.writes])
    |>.of_one (State.freeModEn_sameBut _ .tx) (by simp [Instr.writes])

/-- A part that leaves a set of fields alone, then one that ends where `P` holds. -/
theorem Res.leaves_bind_sameBut {α β : Type} {P : State → Prop} {r : Res α} {k : α → State → Res β}
    (hr : r.leaves (SameBut w s)) (hP : ∀ u, SameBut w s u → P u)
    (hk : ∀ a u, SameBut w s u → (k a u).leaves P) : (r.bind k).leaves P := by
  cases r with
  | done a u => exact hk a u hr
  | raised e u => exact hP u hr
  | fault f => trivial

/-- What an `INIT` that began in `s` can leave: until its last step it has written nothing but the RFFE
register and what the front end holds, and the last step moves the board to `Initialized` (40_bringup
rules R114 and R115). -/
def InitLeaves (s v : State) : Prop :=
  ∃ u, SameBut (.rffe :: frontEndFields) s u ∧ (v = u ∨ v = u.withBstate .initialized)

theorem execInit_leaves (h : execInit s = .next t) :
    ∃ v status result, InitLeaves s v ∧ t = v.respond status result := by
  have hstop (u : State) (hu : SameBut (.rffe :: frontEndFields) s u) : InitLeaves s u :=
    ⟨u, hu, .inl rfl⟩
  refine answer_leaves (gate_leaves (hstop s (.refl s)) ?_) h
  refine Res.leaves_bind_sameBut (rffeWrite_sameBut _ (.refl s) (by simp)) hstop fun _ u hu => ?_
  have hfront := hu.step (constructFrontEnd_sameBut u) (by simp)
  refine Res.leaves_bind_sameBut (primeBand_sameBut .rx1 hfront (by simp) (by simp [Chan.dir])) hstop
    fun _ x hx => ?_
  refine Res.leaves_bind_sameBut (primeBand_sameBut .tx1 hx (by simp) (by simp [Chan.dir])) hstop
    fun _ y hy => ?_
  exact ⟨y, hy, .inr rfl⟩

theorem execInit_sameBut (h : execInit s = .next t) : SameBut Instr.init.writes s t := by
  obtain ⟨v, _, _, ⟨u, hu, hv⟩, rfl⟩ := execInit_leaves h
  have hu : SameBut Instr.init.writes s u := hu.mono (by simp [Instr.writes])
  refine SameBut.of_none ?_ (v.respond_sameBut _ _)
  rcases hv with rfl | rfl
  · exact hu
  · exact hu.of_one (u.withBstate_sameBut _) (by simp [Instr.writes])

/-- `CLOSE` may write every field, so there is nothing for it to leave alone. -/
theorem mem_close_writes (f : StateField) : f ∈ Instr.close.writes := by
  rcases f with _ | _ | _ | ⟨⟨⟩⟩ | ⟨⟨⟩⟩ | ⟨⟨⟩⟩ | ⟨⟨⟩⟩ <;> simp [Instr.writes]

theorem execSelectBand_sameBut {ch : BitVec 8} {f : Freq} (h : execSelectBand ch f s = .next t) :
    SameBut (Instr.selectBand ch f).writes s t :=
  chanCommand_sameBut h fun c =>
    Res.leaves_bind (selectBand_sameBut c f (.refl s) (by simp) (by simp)) fun _ _ _ hu => hu

theorem execSetFrequency_sameBut {ch : BitVec 8} {f : Freq} (h : execSetFrequency ch f s = .next t) :
    SameBut (Instr.setFrequency ch f).writes s t :=
  chanCommand_sameBut h fun c => require_leaves (.refl s) fun _ =>
    Res.leaves_bind (phySetLo_sameBut c.dir f (.refl s) (by simp)) fun _ _ _ hu =>
    Res.leaves_bind (selectBand_sameBut c f hu (by simp) (by simp)) fun _ _ _ hx => hx

theorem execSetRfPort_sameBut {ch : BitVec 8} {p : PortId} (h : execSetRfPort ch p s = .next t) :
    SameBut (Instr.setRfPort ch p).writes s t :=
  chanCommand_sameBut h fun c => require_leaves (.refl s) fun _ =>
    Res.leaves_bind (phySetPort_sameBut c.dir p (.refl s) (by simp)) fun _ _ _ hu => hu

theorem execGetRfPort_sameBut {ch : BitVec 8} (h : execGetRfPort ch s = .next t) :
    SameBut (Instr.getRfPort ch).writes s t :=
  answer_sameBut h (gate_leaves (.refl s) <| withChan_leaves (.refl s) fun c _ =>
    Res.leaves_bind (phyGetPort_sameBut c.dir (.refl s)) fun _ _ _ hu =>
      require_leaves hu fun _ => hu)

theorem execGetCorrection_sameBut {ch kd : BitVec 8} (h : execGetCorrection ch kd s = .next t) :
    SameBut (Instr.getCorrection ch kd).writes s t :=
  answer_sameBut h (gate_leaves (.refl s) <| withChan_leaves (.refl s) fun c _ =>
    withKind_leaves (.refl s) fun _ _ =>
    Res.leaves_bind (corrBandNow_sameBut c.dir (.refl s)) fun _ _ _ hu =>
    Res.leaves_bind (readCorr_sameBut _ _ hu) fun _ _ _ hx => hx)

theorem execSetCorrection_sameBut {ch kd : BitVec 8} {v : BitVec 16}
    (h : execSetCorrection ch kd v s = .next t) : SameBut (Instr.setCorrection ch kd v).writes s t :=
  answer_sameBut h (gate_leaves (.refl s) <| withChan_leaves (.refl s) fun c _ =>
    withKind_leaves (.refl s) fun k _ =>
    Res.leaves_bind (corrBandNow_sameBut c.dir (.refl s)) fun b _ _ hu =>
    Res.leaves_bind (writeCorr_sameBut _ b v hu (by simp [Instr.writes])) fun _ _ _ hx =>
    Res.leaves_bind (forceSet_sameBut c k b hx (by simp [Instr.writes])) fun _ _ _ hy => hy)

theorem execEnableModule_sameBut {ch : BitVec 8} (h : execEnableModule ch s = .next t) :
    SameBut (Instr.enableModule ch).writes s t :=
  chanCommand_sameBut h fun c =>
    Res.leaves_bind (phyGetLo_sameBut c.dir (.refl s)) fun _ _ _ hu =>
    Res.leaves_bind (phySetPort_sameBut c.dir _ hu (by simp)) fun _ _ _ hx =>
    Res.leaves_bind (rffeRead_sameBut hx) fun _ _ _ hy =>
    Res.leaves_bind (rffeWrite_sameBut _ hy (by simp)) fun _ _ _ hz =>
    Res.leaves_bind (backendEnable_sameBut c.dir true hz (by simp)) fun _ _ _ hlast => hlast

theorem execDisableModule_sameBut {ch : BitVec 8} (h : execDisableModule ch s = .next t) :
    SameBut (Instr.disableModule ch).writes s t :=
  chanCommand_sameBut h fun c =>
    have htorn := (SameBut.refl s).of_one (streamTeardown_sameBut s c.dir) (by simp)
    Res.leaves_bind (rffeRead_sameBut htorn) fun _ _ _ hx =>
    Res.leaves_bind (rffeWrite_sameBut _ hx (by simp)) fun _ _ _ hy =>
    Res.leaves_bind (backendEnable_sameBut c.dir false hy (by simp)) fun _ _ _ hz => hz

theorem execSyncConfig_sameBut {ch : BitVec 8} (h : execSyncConfig ch s = .next t) :
    SameBut (Instr.syncConfig ch).writes s t :=
  chanCommand_sameBut h fun c => s.withHandle_sameBut c.dir true

theorem execRegRead_sameBut {a : RegAddr} (h : execRegRead a s = .next t) :
    SameBut (Instr.regRead a).writes s t :=
  answer_sameBut h (gate_leaves (.refl s) <| require_leaves (.refl s) fun _ =>
    Res.leaves_bind (spiRead_sameBut a (.refl s)) fun _ _ _ hu => hu)

theorem execRegWrite_sameBut {a : RegAddr} {v : Byte} (h : execRegWrite a v s = .next t) :
    SameBut (Instr.regWrite a v).writes s t := by
  refine answer_sameBut h (gate_leaves (.refl s) <| require_leaves (.refl s) fun _ =>
    Res.leaves_bind (spiWrite_sameBut a v (.refl s) (by simp [Instr.writes])) fun _ u _ hu => ?_)
  rw [Res.leaves_done]
  split
  · exact hu
  · exact hu.step u.opaqueWritten_sameBut (by simp [Instr.writes])

/-- A command that answers, with success or an error, leaves every field it does not write. -/
theorem exec_sameBut {i : Instr} (h : exec i s = .next t) : SameBut i.writes s t := by
  cases i with
  | fwDetected => exact execFwDetected_sameBut h
  | fpgaLoaded => exact execFpgaLoaded_sameBut h
  | init => exact execInit_sameBut h
  | close => exact fun f hf => absurd (mem_close_writes f) hf
  | selectBand => exact execSelectBand_sameBut h
  | setFrequency => exact execSetFrequency_sameBut h
  | setRfPort => exact execSetRfPort_sameBut h
  | getRfPort => exact execGetRfPort_sameBut h
  | getCorrection => exact execGetCorrection_sameBut h
  | setCorrection => exact execSetCorrection_sameBut h
  | enableModule => exact execEnableModule_sameBut h
  | disableModule => exact execDisableModule_sameBut h
  | syncConfig => exact execSyncConfig_sameBut h
  | regRead => exact execRegRead_sameBut h
  | regWrite => exact execRegWrite_sameBut h

end Commands

end Machine

/-! The table read by field: which commands write it. -/

namespace Instr

variable {i : Instr}

/-- The four commands that write the RFFE register on behalf of the channel operand `ch`. -/
def SelectsBand (i : Instr) (ch : BitVec 8) : Prop :=
  (∃ f, i = .selectBand ch f) ∨ (∃ f, i = .setFrequency ch f) ∨ i = .enableModule ch
    ∨ i = .disableModule ch

theorem SelectsBand.chan?_eq {ch : BitVec 8} (h : i.SelectsBand ch) : i.chan? = Chan.ofCode ch := by
  rcases h with ⟨f, rfl⟩ | ⟨f, rfl⟩ | rfl | rfl <;> rfl

theorem rffe_mem_writes (h : .rffe ∈ i.writes) :
    i = .fpgaLoaded ∨ i = .init ∨ i = .close
      ∨ ∃ ch c, Chan.ofCode ch = some c ∧ i.SelectsBand ch := by
  cases i <;> simp_all [writes, mem_onChan, SelectsBand]

theorem fe_mem_writes (h : .fe ∈ i.writes) :
    i = .init ∨ i = .close ∨ (∃ ch k v, i = .setCorrection ch k v) ∨ ∃ a v, i = .regWrite a v := by
  cases i <;> simp_all [writes, mem_onChan]

theorem port_mem_writes {d : Dir} (h : .port d ∈ i.writes) :
    i = .init ∨ i = .close ∨ (∃ ch f, i = .selectBand ch f) ∨ (∃ ch f, i = .setFrequency ch f)
      ∨ (∃ ch p, i = .setRfPort ch p) ∨ (∃ ch, i = .enableModule ch) ∨ ∃ a v, i = .regWrite a v := by
  cases i <;> simp_all [writes, mem_onChan]

theorem loFreq_mem_writes {d : Dir} (h : .loFreq d ∈ i.writes) :
    i = .init ∨ i = .close ∨ (∃ ch f, i = .setFrequency ch f) ∨ ∃ a v, i = .regWrite a v := by
  cases i <;> simp_all [writes, mem_onChan]

theorem modEn_mem_writes {d : Dir} (h : .modEn d ∈ i.writes) :
    i = .fpgaLoaded ∨ i = .close ∨ (∃ ch, i = .enableModule ch) ∨ ∃ ch, i = .disableModule ch := by
  cases i <;> simp_all [writes, mem_onChan]

theorem syncHandle_mem_writes {d : Dir} (h : .syncHandle d ∈ i.writes) :
    i = .close ∨ (∃ ch, i = .disableModule ch) ∨ ∃ ch, i = .syncConfig ch := by
  cases i <;> simp_all [writes, mem_onChan]

theorem bstate_mem_writes (h : .bstate ∈ i.writes) :
    i = .fwDetected ∨ i = .fpgaLoaded ∨ i = .init ∨ i = .close := by
  cases i <;> simp_all [writes, mem_onChan]

/-- A command with a channel writes fields of the channel's direction, the RFFE register, which both
directions share, and front-end registers. -/
theorem mem_writes_of_chan {c : Chan} {f : StateField} (hc : i.chan? = some c) (h : f ∈ i.writes) :
    f ∈ [.rffe, .fe, .port c.dir, .loFreq c.dir, .modEn c.dir, .syncHandle c.dir] := by
  cases i <;> simp_all [writes, mem_onChan, chan?] <;> tauto

end Instr

namespace Machine

/-! The board state. -/

theorem State.le_advanceTo_bstate (s : State) (b : BoardState) :
    s.bstate.code ≤ (s.advanceTo b).bstate.code := by
  rw [State.advanceTo_bstate]
  split
  · omega
  · exact le_rfl

theorem execFwDetected_bstate_le {s t : State} (h : execFwDetected s = .next t) :
    s.bstate.code ≤ t.bstate.code := by
  rw [execFwDetected, answer_done] at h
  cases h
  exact s.le_advanceTo_bstate _

theorem execFpgaLoaded_bstate_le {s t : State} (h : execFpgaLoaded s = .next t) :
    s.bstate.code ≤ t.bstate.code := by
  unfold execFpgaLoaded gate at h
  split at h
  · cases h
    exact le_rfl
  · cases h
    exact s.le_advanceTo_bstate _

theorem execInit_bstate_le {s t : State} (h : execInit s = .next t) :
    s.bstate.code ≤ t.bstate.code := by
  obtain ⟨v, _, _, ⟨u, hu, rfl | rfl⟩, rfl⟩ := execInit_leaves h
  · exact (congrArg BoardState.code (hu .bstate (by simp))).ge
  · change _ ≤ BoardState.code .initialized
    cases s.bstate <;> decide

/-- A command that does not write the board state leaves it; of the four that do, three move it
forward. -/
theorem exec_bstate_le {i : Instr} {s t : State} (h : exec i s = .next t) (hi : i ≠ .close) :
    s.bstate.code ≤ t.bstate.code := by
  by_cases hw : StateField.bstate ∈ i.writes
  · rcases Instr.bstate_mem_writes hw with rfl | rfl | rfl | rfl
    · exact execFwDetected_bstate_le h
    · exact execFpgaLoaded_bstate_le h
    · exact execInit_bstate_le h
    · exact absurd rfl hi
  · exact (congrArg BoardState.code (exec_sameBut h .bstate hw)).ge

/-- Settles O14 -/
theorem boardStateMovesForward : Obligations.BoardStateMovesForward := by
  intro i s t h
  refine ⟨exec_bstate_le h, fun hfw hfpga hinit hclose => exec_sameBut h .bstate fun hw => ?_⟩
  rcases Instr.bstate_mem_writes hw with rfl | rfl | rfl | rfl
  all_goals contradiction

/-- Settles O15 from the table of written fields, read field by field. -/
theorem fieldsChangedOnlyByTheirCommands : Obligations.FieldsChangedOnlyByTheirCommands := by
  intro i s t h hclose
  have hsame := exec_sameBut h
  refine ⟨fun hinit hfpga hsel hfreq hen hdis => hsame .rffe fun hw => ?_,
    fun hinit hcorr hreg => hsame .fe fun hw => ?_,
    fun hinit hsel hfreq hport hen hreg => PerDir.eq_of_get fun d => hsame (.port d) fun hw => ?_,
    fun hinit hfreq hreg => PerDir.eq_of_get fun d => hsame (.loFreq d) fun hw => ?_,
    fun hfpga hen hdis => PerDir.eq_of_get fun d => hsame (.modEn d) fun hw => ?_,
    fun hsync hdis => PerDir.eq_of_get fun d => hsame (.syncHandle d) fun hw => ?_⟩
  · have := Instr.rffe_mem_writes hw
    simp_all [Instr.SelectsBand]
  · have := Instr.fe_mem_writes hw
    simp_all
  · have := Instr.port_mem_writes hw
    simp_all
  · have := Instr.loFreq_mem_writes hw
    simp_all
  · have := Instr.modEn_mem_writes hw
    simp_all
  · have := Instr.syncHandle_mem_writes hw
    simp_all

end Machine

end Sys2Proof
end

-- What a successful command writes to the RFFE register, and the statements that rest on it.
section
/-!
SUPPORT and PROOFS. A successful command on a direction writes the RFFE register in one way only
(`RffeWritten`, 10_state rule R25), which keeps the other direction's fields and leaves a disabled
direction with the Shutdown code: `DisabledDirectionHasShutdownCode`, `OtherDirectionUntouched`,
`StepKeepsShutdownOfDisabled`.
-/

namespace Sys2Proof

namespace Machine

/-! The success of a command, taken apart. -/

section Success

variable {α : Type} {s t : State}

theorem exec_cfg {i : Instr} (h : exec i s = .next t) : t.cfg = s.cfg := by
  have ha := exec_answered i (.refl s)
  rw [h] at ha
  exact ha.1.cfg

/-- Under a legal configuration no error code is 0, so a command that shows success is done. -/
theorem answer_succeeded {r : Res (BitVec 64)} (h : answer r = .next t) (hc : t.cfg.legal = true)
    (ht : t.succeeded) : ∃ v u, r = .done v u ∧ t = u.respond 0 v := by
  rcases answer_eq_next h with hdone | ⟨e, u, rfl, rfl⟩
  · exact hdone
  · obtain ⟨v, hv⟩ := ht
    rw [State.fail_response, Option.some.injEq, Response.mk.injEq] at hv
    exact absurd hv.1 (Cfg.legal_errCode_ne_zero hc e)

theorem gate_eq_done {min : BoardState} {k : State → Res α} {a : α} (h : gate min s k = .done a t) :
    min.code ≤ s.bstate.code ∧ k s = .done a t := by
  unfold gate at h
  split at h
  · cases h
  · exact ⟨by omega, h⟩

theorem require_eq_done {ok : Bool} {e : Err} {k : State → Res α} {a : α}
    (h : require ok e s k = .done a t) : ok = true ∧ k s = .done a t := by
  cases ok with
  | true => exact ⟨rfl, h⟩
  | false => cases h

/-- A successful command with a gate and a legal channel operand ran its body to the end. -/
theorem chanCommand_succeeded {min : BoardState} {ch : BitVec 8} {c : Chan}
    {k : Chan → State → Res (BitVec 64)} (hch : Chan.ofCode ch = some c)
    (h : answer (gate min s fun s => withChan ch s k) = .next t) (hc : t.cfg.legal = true)
    (ht : t.succeeded) : ∃ v u, k c s = .done v u ∧ t = u.respond 0 v := by
  obtain ⟨v, u, hdone, rfl⟩ := answer_succeeded h hc ht
  have hbody := (gate_eq_done hdone).2
  rw [withChan_passes hch] at hbody
  exact ⟨v, u, hbody, rfl⟩

end Success

/-! What is written. -/

/-- `r'` is `r` with the enable bit and the antenna field of direction `d` written, the Shutdown code
where the bit is 0 (10_state rule R25, "Invariant the commands keep"). -/
def RffeWritten (c : Cfg) (d : Dir) (r r' : Rffe) : Prop :=
  ∃ e b, (e = false → b = .shutdown) ∧ r' = moduleRffe c d e b r

namespace RffeWritten

variable {c : Cfg} {d d' : Dir} {r r' : Rffe}

/-- Band selection: the enable bit stays, and a disabled direction gets `Shutdown` (41_band_port rule
R133). -/
theorem of_bandFor (c : Cfg) (d : Dir) (f : Freq) (r : Rffe) :
    RffeWritten c d r (c.withAntenna d (c.bandFor d (c.enabledIn d r) f) r) := by
  refine ⟨c.enabledIn d r, c.bandFor d (c.enabledIn d r) f, fun he => ?_, ?_⟩
  · rw [he]
    rfl
  · rw [moduleRffe, Cfg.withEnable_enabledIn]

theorem shutdown_of_disabled (hc : c.legal = true) (h : RffeWritten c d r r')
    (hoff : c.enabledIn d r' = false) : c.antennaIn d r' = c.antCodeOf d .shutdown := by
  obtain ⟨e, b, hb, rfl⟩ := h
  rw [moduleRffe, Cfg.enabledIn_withAntenna _ _ hc, Cfg.enabledIn_withEnable] at hoff
  rw [moduleRffe, Cfg.antennaIn_withAntenna _ _ hc, hb hoff]

theorem enabledIn_ne (hc : c.legal = true) (h : RffeWritten c d r r') (hd : d' ≠ d) :
    c.enabledIn d' r' = c.enabledIn d' r := by
  obtain ⟨e, b, -, rfl⟩ := h
  rw [moduleRffe, Cfg.enabledIn_withAntenna _ _ hc, Cfg.enabledIn_withEnable_ne _ _ hc hd]

theorem antennaIn_ne (hc : c.legal = true) (h : RffeWritten c d r r') (hd : d' ≠ d) :
    c.antennaIn d' r' = c.antennaIn d' r := by
  obtain ⟨e, b, -, rfl⟩ := h
  rw [moduleRffe, Cfg.antennaIn_withAntenna_ne _ _ hc hd, Cfg.antennaIn_withEnable _ _ hc]

end RffeWritten

section Commands

variable {s t : State} {ch : BitVec 8} {c : Chan}

/-- What `SelectBand` leaves when every call succeeds (41_band_port rule R135). -/
def bandSelected (c : Chan) (f : Freq) (s : State) : State :=
  let b := s.cfg.bandFor c.dir (s.enabled c.dir) f
  let r := s.cfg.withAntenna c.dir b s.rffe
  ((s.after [.rffeRead, .phySetPort c.dir (s.cfg.portOf c.dir b), .rffeWrite r]).withPort c.dir
    (s.cfg.portOf c.dir b)).withRffe r

@[simp] theorem bandSelected_cfg (c : Chan) (f : Freq) (s : State) :
    (bandSelected c f s).cfg = s.cfg := rfl

theorem selectBand_eq_done {f : Freq} (h : selectBand c f s = .done () t) :
    t = bandSelected c f s := by
  obtain ⟨r, u, hread, h⟩ := Res.bind_eq_done h
  obtain ⟨-, rfl, rfl⟩ := rffeRead_eq_done hread
  obtain ⟨⟨⟩, u, hport, h⟩ := Res.bind_eq_done h
  obtain ⟨-, rfl⟩ := phySetPort_eq_done hport
  obtain ⟨-, rfl⟩ := rffeWrite_eq_done h
  simp [bandSelected, State.enabled]

theorem selectBand_rffeWritten {f : Freq} (h : selectBand c f s = .done () t) :
    RffeWritten s.cfg c.dir s.rffe t.rffe := by
  rw [selectBand_eq_done h]
  exact .of_bandFor s.cfg c.dir f s.rffe

theorem execSelectBand_rffeWritten {f : Freq} (hch : Chan.ofCode ch = some c)
    (h : execSelectBand ch f s = .next t) (hc : t.cfg.legal = true) (ht : t.succeeded) :
    RffeWritten s.cfg c.dir s.rffe t.rffe := by
  obtain ⟨_, _, hdone, rfl⟩ := chanCommand_succeeded hch h hc ht
  obtain ⟨⟨⟩, u, hsel, ⟨⟩⟩ := Res.bind_eq_done hdone
  have hwritten := selectBand_rffeWritten hsel
  exact hwritten

theorem execSetFrequency_rffeWritten {f : Freq} (hch : Chan.ofCode ch = some c)
    (h : execSetFrequency ch f s = .next t) (hc : t.cfg.legal = true) (ht : t.succeeded) :
    RffeWritten s.cfg c.dir s.rffe t.rffe := by
  obtain ⟨_, _, hdone, rfl⟩ := chanCommand_succeeded hch h hc ht
  obtain ⟨-, hdone⟩ := require_eq_done hdone
  obtain ⟨⟨⟩, u, hlo, hdone⟩ := Res.bind_eq_done hdone
  obtain ⟨-, rfl⟩ := phySetLo_eq_done hlo
  obtain ⟨⟨⟩, u, hsel, ⟨⟩⟩ := Res.bind_eq_done hdone
  have hwritten := selectBand_rffeWritten hsel
  exact hwritten

theorem execEnableModule_rffeWritten (hch : Chan.ofCode ch = some c)
    (h : execEnableModule ch s = .next t) (hc : t.cfg.legal = true) (ht : t.succeeded) :
    RffeWritten s.cfg c.dir s.rffe t.rffe := by
  obtain ⟨_, _, hdone, rfl⟩ := chanCommand_succeeded hch h hc ht
  obtain ⟨f, u, hlo, hdone⟩ := Res.bind_eq_done hdone
  obtain ⟨-, -, rfl⟩ := phyGetLo_eq_done hlo
  obtain ⟨⟨⟩, u, hport, hdone⟩ := Res.bind_eq_done hdone
  obtain ⟨-, rfl⟩ := phySetPort_eq_done hport
  obtain ⟨r, u, hread, hdone⟩ := Res.bind_eq_done hdone
  obtain ⟨-, rfl, rfl⟩ := rffeRead_eq_done hread
  obtain ⟨⟨⟩, u, hwrite, hdone⟩ := Res.bind_eq_done hdone
  obtain ⟨-, rfl⟩ := rffeWrite_eq_done hwrite
  obtain ⟨⟨⟩, u, hmod, ⟨⟩⟩ := Res.bind_eq_done hdone
  obtain ⟨-, rfl⟩ := backendEnable_eq_done hmod
  exact ⟨true, s.cfg.bandFor c.dir true f, nofun, rfl⟩

theorem execDisableModule_rffeWritten (hch : Chan.ofCode ch = some c)
    (h : execDisableModule ch s = .next t) (hc : t.cfg.legal = true) (ht : t.succeeded) :
    RffeWritten s.cfg c.dir s.rffe t.rffe := by
  obtain ⟨_, _, hdone, rfl⟩ := chanCommand_succeeded hch h hc ht
  obtain ⟨r, u, hread, hdone⟩ := Res.bind_eq_done hdone
  obtain ⟨-, rfl, rfl⟩ := rffeRead_eq_done hread
  obtain ⟨⟨⟩, u, hwrite, hdone⟩ := Res.bind_eq_done hdone
  obtain ⟨-, rfl⟩ := rffeWrite_eq_done hwrite
  obtain ⟨⟨⟩, u, hmod, ⟨⟩⟩ := Res.bind_eq_done hdone
  obtain ⟨-, rfl⟩ := backendEnable_eq_done hmod
  exact ⟨false, .shutdown, fun _ => rfl, rfl⟩

/-- All four commands that write the RFFE register on a direction write it in the one way. -/
theorem exec_rffeWritten {i : Instr} (hc : s.cfg.legal = true) (hch : Chan.ofCode ch = some c)
    (hi : i.SelectsBand ch) (h : exec i s = .next t) (ht : t.succeeded) :
    RffeWritten s.cfg c.dir s.rffe t.rffe := by
  have hc : t.cfg.legal = true := exec_cfg h ▸ hc
  rcases hi with ⟨f, rfl⟩ | ⟨f, rfl⟩ | rfl | rfl
  · exact execSelectBand_rffeWritten hch h hc ht
  · exact execSetFrequency_rffeWritten hch h hc ht
  · exact execEnableModule_rffeWritten hch h hc ht
  · exact execDisableModule_rffeWritten hch h hc ht

/-- `INIT` writes the reset value and then each direction's fields (40_bringup rule R114). -/
theorem execInit_rffeWritten (h : execInit s = .next t) (hc : t.cfg.legal = true) (ht : t.succeeded) :
    ∃ r, RffeWritten s.cfg .rx s.cfg.rffeInit r ∧ RffeWritten s.cfg .tx r t.rffe := by
  obtain ⟨v, u, hdone, rfl⟩ := answer_succeeded h hc ht
  obtain ⟨-, hdone⟩ := gate_eq_done hdone
  obtain ⟨⟨⟩, u, hwrite, hdone⟩ := Res.bind_eq_done hdone
  obtain ⟨-, rfl⟩ := rffeWrite_eq_done hwrite
  obtain ⟨⟨⟩, x, hrx, hdone⟩ := Res.bind_eq_done hdone
  obtain ⟨⟨⟩, y, htx, ⟨⟩⟩ := Res.bind_eq_done hdone
  obtain ⟨f, _, hlo, hrx⟩ := Res.bind_eq_done hrx
  obtain ⟨-, -, rfl⟩ := phyGetLo_eq_done hlo
  obtain ⟨g, _, hlo, htx⟩ := Res.bind_eq_done htx
  obtain ⟨-, -, rfl⟩ := phyGetLo_eq_done hlo
  have hwrittenRx := selectBand_rffeWritten hrx
  have hwrittenTx := selectBand_rffeWritten htx
  have hcfg : x.cfg = s.cfg := by simp [selectBand_eq_done hrx]
  exact ⟨x.rffe, by simpa [Chan.dir] using hwrittenRx, by simpa [Chan.dir, hcfg] using hwrittenTx⟩

end Commands

/-! The Shutdown code of a disabled direction. -/

section Shutdown

variable {s t : State} {d : Dir}

theorem State.shutWhenDisabled_of_rffe_eq (hcfg : t.cfg = s.cfg) (hrffe : t.rffe = s.rffe)
    (h : s.shutWhenDisabled d) : t.shutWhenDisabled d := by
  simpa only [State.shutWhenDisabled, State.enabled, State.antenna, hcfg, hrffe] using h

theorem RffeWritten.shutWhenDisabled {r : Rffe} (hc : s.cfg.legal = true) (hcfg : t.cfg = s.cfg)
    (h : RffeWritten s.cfg d r t.rffe) : t.shutWhenDisabled d := by
  rw [State.shutWhenDisabled, State.enabled, State.antenna, hcfg]
  exact h.shutdown_of_disabled hc

/-- What one direction is written leaves the other as it was. -/
theorem RffeWritten.shutWhenDisabled_ne {d' : Dir} (hc : s.cfg.legal = true) (hcfg : t.cfg = s.cfg)
    (h : RffeWritten s.cfg d s.rffe t.rffe) (hd : d' ≠ d) (hs : s.shutWhenDisabled d') :
    t.shutWhenDisabled d' := by
  rw [State.shutWhenDisabled, State.enabled, State.antenna, hcfg, h.enabledIn_ne hc hd,
    h.antennaIn_ne hc hd]
  exact hs

/-- After a successful `INIT` both directions have it, whatever stood in the register before. -/
theorem execInit_shutWhenDisabled (hc : s.cfg.legal = true) (h : execInit s = .next t)
    (ht : t.succeeded) (d : Dir) : t.shutWhenDisabled d := by
  have hcfg := exec_cfg (i := .init) h
  obtain ⟨r, hrx, htx⟩ := execInit_rffeWritten h (hcfg ▸ hc) ht
  cases d with
  | tx => exact htx.shutWhenDisabled hc hcfg
  | rx =>
    have hr : (s.withRffe r).shutWhenDisabled .rx := hrx.shutWhenDisabled hc rfl
    exact htx.shutWhenDisabled_ne (s := s.withRffe r) hc hcfg nofun hr

/-- A successful command but for `FPGA_LOADED` and `CLOSE` keeps it in both directions. -/
theorem exec_keeps_shutWhenDisabled {i : Instr} (hc : s.cfg.legal = true) (hfpga : i ≠ .fpgaLoaded)
    (hclose : i ≠ .close) (hs : ∀ d, s.shutWhenDisabled d) (h : exec i s = .next t)
    (ht : t.succeeded) (d : Dir) : t.shutWhenDisabled d := by
  have hcfg := exec_cfg h
  by_cases hw : StateField.rffe ∈ i.writes
  · rcases Instr.rffe_mem_writes hw with rfl | rfl | rfl | ⟨ch, c, hch, hi⟩
    · exact absurd rfl hfpga
    · exact execInit_shutWhenDisabled hc h ht d
    · exact absurd rfl hclose
    · have hwritten := exec_rffeWritten hc hch hi h ht
      by_cases hd : d = c.dir
      · exact hd ▸ hwritten.shutWhenDisabled hc hcfg
      · exact hwritten.shutWhenDisabled_ne hc hcfg hd (hs d)
  · exact State.shutWhenDisabled_of_rffe_eq hcfg (exec_sameBut h .rffe hw) (hs d)

end Shutdown

/-- Settles O17: each of the four commands writes the register as `RffeWritten` says. -/
theorem disabledDirectionHasShutdownCode : Obligations.DisabledDirectionHasShutdownCode := by
  intro i ch c s t hc hch hi h ht
  exact (exec_rffeWritten hc hch hi h ht).shutWhenDisabled hc (exec_cfg h)

/-- Settles O18: what the command does is `exec_keeps_shutWhenDisabled`; the front end's time before it
leaves the register alone (log 11), and so does a word that is no command. -/
theorem stepKeepsShutdownOfDisabled : Obligations.StepKeepsShutdownOfDisabled := by
  intro s t c rest hc hp hfpga hclose hs hstep ht d
  have hstart (d : Dir) : s.commandStart.shutWhenDisabled d :=
    State.shutWhenDisabled_of_rffe_eq s.commandStart_cfg s.commandStart_rffe (hs d)
  cases hdec : decode c with
  | ok i =>
    rw [step_of_decode_ok hp hdec] at hstep
    refine exec_keeps_shutWhenDisabled (s.commandStart_cfg ▸ hc) ?_ ?_ hstart hstep ht d
    · rintro rfl
      exact hfpga hdec
    · rintro rfl
      exact hclose hdec
  | error e =>
    rw [step_of_decode_error hp hdec] at hstep
    cases hstep
    exact hstart d

/-- Of the RFFE register the other direction's fields stay. -/
theorem exec_rffe_ne {i : Instr} {c : Chan} {d : Dir} {s t : State} (hc : s.cfg.legal = true)
    (hchan : i.chan? = some c) (hd : d ≠ c.dir) (h : exec i s = .next t) (ht : t.succeeded) :
    t.enabled d = s.enabled d ∧ t.antenna d = s.antenna d := by
  rw [State.enabled, State.antenna, exec_cfg h]
  by_cases hw : StateField.rffe ∈ i.writes
  · rcases Instr.rffe_mem_writes hw with rfl | rfl | rfl | ⟨ch, c', hch, hi⟩
    · cases hchan
    · cases hchan
    · cases hchan
    · rw [hi.chan?_eq, hch, Option.some.injEq] at hchan
      subst hchan
      have hwritten := exec_rffeWritten hc hch hi h ht
      exact ⟨hwritten.enabledIn_ne hc hd, hwritten.antennaIn_ne hc hd⟩
  · rw [show t.rffe = s.rffe from exec_sameBut h .rffe hw]
    exact ⟨rfl, rfl⟩

/-- Settles O16: every field of the other direction but the two in the RFFE register is outside what
the command writes, and what it writes to the register leaves those two alone. -/
theorem otherDirectionUntouched : Obligations.OtherDirectionUntouched := by
  intro i c d s t hc hchan hd h ht
  have hsame := exec_sameBut h
  have hout {f : StateField}
      (hf : f ∉ [.rffe, .fe, .port c.dir, .loFreq c.dir, .modEn c.dir, .syncHandle c.dir]) :
      f ∉ i.writes := fun hw => hf (Instr.mem_writes_of_chan hchan hw)
  exact ⟨hsame (.port d) (hout (by simpa using hd)), hsame (.loFreq d) (hout (by simpa using hd)),
    hsame (.modEn d) (hout (by simpa using hd)), hsame (.syncHandle d) (hout (by simpa using hd)),
    exec_rffe_ne hc hchan hd h ht⟩

end Machine

end Sys2Proof
end

-- Which front-end registers the front end, a register write and a correction leave alone.
section
/-!
SUPPORT and PROOFS. What a register reads after the front end's time between two commands, after a write
to an opaque register and after a correction is stored, and the statements on the front-end registers:
`ForcedCorrectionsHoldBetweenCommands`, `RegWriteKnownResult`, `RegWriteOpaqueResult`,
`SetCorrectionClearsNoForceBit`.
-/

namespace Sys2Proof

theorem Cfg.fieldsAt_eq_nil_of_opaque {c : Cfg} {a : Nat} (h : c.knownReg a = false) :
    c.isForceReg a = false ∧ c.fieldsAt a = [] := by
  simpa [Cfg.knownReg] using h

theorem Cfg.ne_forceReg {c : Cfg} {a : RegAddr} (h : c.isForceReg a.toNat = false) (ch : Chan) :
    (c.forceReg.get ch).toNat ≠ a.toNat := by
  intro heq
  have hforce := c.isForceReg_forceReg ch
  rw [heq, h] at hforce
  cases hforce

/-- The registers one correction is stored in. -/
def Slot.regs (b : CorrBand) : Slot → List RegAddr
  | .single e => [e.reg.get b]
  | .pair e => [(e.reg.get b).top, (e.reg.get b).bot]

/-- A correction apart from the force registers is stored in none of them (log 26). -/
theorem Cfg.slotApart_regs {c : Cfg} {ch : Chan} {k : Kind} {b : CorrBand}
    (h : c.slotApart ch k b = true) (ch' : Chan) : c.forceReg.get ch' ∉ (c.slot ch k).regs b := by
  cases he : c.slot ch k with
  | single e => simpa [Slot.regs] using (Cfg.slotApart_single h he ch').symm
  | pair e =>
    obtain ⟨htop, hbot, -⟩ := Cfg.slotApart_pair h he ch'
    simp [Slot.regs, htop.symm, hbot.symm]

namespace Machine

/-! A refresh of the register space. -/

section Refresh

variable {size a : Nat} {keep : Nat → Byte}

theorem and_ff (x : Byte) : x &&& 0xFF = x :=
  BitVec.and_allOnes

/-- A register held whole reads as before. -/
theorem feGet_feRefresh_whole (n : Nat) (m : List Host.Cell) (ha : a < size) (h : keep a = 0xFF) :
    feGet (feRefresh size keep n m) a = feGet m a := by
  have hheld := feGet_feRefresh_held size keep n m a ha
  rwa [h, and_ff, and_ff] at hheld

/-- A register of which no bit is held is any value. -/
theorem feGet_feRefresh_free (n : Nat) (m : List Host.Cell) (ha : a < size) (h : keep a = 0) :
    feGet (feRefresh size keep n m) a = Config.freeByte n a := by
  rw [feGet_feRefresh _ _ _ _ _ ha, h]
  change feGet m a &&& 0#8 ||| Config.freeByte n a &&& 0xFF = _
  rw [BitVec.and_zero, BitVec.zero_or, and_ff]

/-- Bits among the held ones read as before. -/
theorem feGet_feRefresh_and {bits : Byte} (n : Nat) (m : List Host.Cell) (ha : a < size)
    (h : ∀ i, bits.getLsbD i = true → (keep a).getLsbD i = true) :
    feGet (feRefresh size keep n m) a &&& bits = feGet m a &&& bits := by
  have hbits : keep a &&& bits = bits := by
    apply BitVec.eq_of_getLsbD_eq
    intro i _
    simpa using h i
  calc feGet (feRefresh size keep n m) a &&& bits
      = (feGet (feRefresh size keep n m) a &&& keep a) &&& bits := by rw [BitVec.and_assoc, hbits]
    _ = (feGet m a &&& keep a) &&& bits := by rw [feGet_feRefresh_held _ _ _ _ _ ha]
    _ = feGet m a &&& bits := by rw [BitVec.and_assoc, hbits]

end Refresh

/-- What the front end's time between two commands does to the registers, once it is constructed. -/
theorem State.commandStart_fe_initialized {s : State} (hb : s.bstate = .initialized) :
    s.commandStart.fe = feRefresh (2 ^ s.cfg.feAddrBits) s.heldBits s.freeCount s.fe := by
  rw [State.commandStart_fe, if_pos hb]

/-- Settles O8: the held bits of a force register are all of them, those of a forced correction's
register hold its field, those of a register with no forced correction are none. -/
theorem forcedCorrectionsHoldBetweenCommands : Obligations.ForcedCorrectionsHoldBetweenCommands := by
  intro s hb
  simp only [State.feAt, State.commandStart_fe_initialized hb, Cfg.feHas_iff]
  exact ⟨fun ch ha => feGet_feRefresh_whole _ _ ha (s.heldBits_forceReg ch),
    fun ch k b f hforced hf ha =>
      feGet_feRefresh_and _ _ ha fun i => State.heldBits_field hf hforced i,
    fun a ha hforce hunforced =>
      feGet_feRefresh_free _ _ ha (State.heldBits_unforced hforce hunforced)⟩

/-! `REG_WRITE`. -/

section RegWrite

variable {s : State} {a r : RegAddr} {v : Byte}

/-- A register write that passes the checks and whose call succeeds, to a register of the tables. -/
theorem execRegWrite_known (hmin : s.cfg.regMinState.code ≤ s.bstate.code)
    (ha : s.cfg.feHas a = true) (hcall : s.nextCallsSucceed 1)
    (hknown : s.cfg.knownReg a.toNat = true) :
    execRegWrite a v s = .next (((s.after [.spiWrite a v]).setFe a v).respond 0 0) := by
  simp [execRegWrite, withRegister, gate_passes hmin, ha, hknown,
    spiWrite_succeeds ha (State.nextStatus_nonneg hcall Nat.one_pos)]

/-- The same to an opaque register. -/
theorem execRegWrite_opaque (hmin : s.cfg.regMinState.code ≤ s.bstate.code)
    (ha : s.cfg.feHas a = true) (hcall : s.nextCallsSucceed 1)
    (hknown : s.cfg.knownReg a.toNat = false) :
    execRegWrite a v s = .next (((s.after [.spiWrite a v]).setFe a v).opaqueWritten.respond 0 0) := by
  simp [execRegWrite, withRegister, gate_passes hmin, ha, hknown,
    spiWrite_succeeds ha (State.nextStatus_nonneg hcall Nat.one_pos)]

/-- A write to a register that is no force register leaves every force bit. -/
theorem State.setFe_forced (h : s.cfg.isForceReg a.toNat = false) (ch : Chan) (k : Kind)
    (b : CorrBand) : (s.setFe a v).forced ch k b = s.forced ch k b := by
  rw [State.forced, State.feAt, State.setFe_fe, State.setFe_cfg,
    feGet_fePut_ne _ _ (Cfg.ne_forceReg h ch)]
  rfl

theorem State.setFe_heldWhole (h : s.cfg.isForceReg a.toNat = false) (n : Nat) :
    (s.setFe a v).heldWhole n = s.heldWhole n := by
  have hforced : (s.setFe a v).fieldForced = s.fieldForced :=
    funext fun f => State.setFe_forced h f.ch f.kind f.band
  rw [State.heldWhole, State.holdsWhole, hforced]
  rfl

@[simp] theorem State.after_feAt (cs : List Call) : (s.after cs).feAt r = s.feAt r := rfl

@[simp] theorem State.respond_feAt (st : BitVec 32) (x : BitVec 64) :
    (s.respond st x).feAt r = s.feAt r := rfl

/-- Through a write to the opaque register `a` a register that holds whole stays; it is not `a`. -/
theorem opaqueWritten_setFe_feAt_of_holds (ha : s.cfg.knownReg a.toNat = false)
    (hr : s.cfg.feHas r = true) (h : s.holdsWhole r.toNat = true) :
    (s.setFe a v).opaqueWritten.feAt r = s.feAt r := by
  obtain ⟨hforce, hfields⟩ := Cfg.fieldsAt_eq_nil_of_opaque ha
  have hne : r.toNat ≠ a.toNat := by
    intro heq
    rcases (s.holdsWhole_iff _).mp h with hf | ⟨hne, -⟩
    · simp [heq, hforce] at hf
    · exact hne (heq ▸ hfields)
  rw [State.feAt, State.opaqueWritten_fe, State.setFe_cfg,
    feGet_feRefresh_whole _ _ (Cfg.feHas_iff.mp hr), State.setFe_fe, feGet_fePut_ne _ _ hne]
  · rfl
  · rw [State.setFe_heldWhole hforce, State.heldWhole_of_holds h]

/-- A register that does not hold whole is any value after it, the written one included. -/
theorem opaqueWritten_setFe_feAt_of_not_holds (ha : s.cfg.knownReg a.toNat = false)
    (hr : s.cfg.feHas r = true) (h : s.holdsWhole r.toNat = false) :
    (s.setFe a v).opaqueWritten.feAt r = Config.freeByte s.freeCount r.toNat := by
  obtain ⟨hforce, -⟩ := Cfg.fieldsAt_eq_nil_of_opaque ha
  rw [State.feAt, State.opaqueWritten_fe, State.setFe_cfg,
    feGet_feRefresh_free _ _ (Cfg.feHas_iff.mp hr)]
  · rfl
  · rw [State.setFe_heldWhole hforce, State.heldWhole_of_not_holds h]

end RegWrite

/-- Settles O39: the write goes through, and a register reads what was last put into it. -/
theorem regWriteKnownResult : Obligations.RegWriteKnownResult := by
  intro s a v hinv hmin ha hknown hcall
  refine ⟨_, execRegWrite_known hmin (Cfg.feHas_iff.mpr ha) hcall hknown, rfl, fun n => ?_, rfl⟩
  exact feGet_fePut hinv.feCanonical _ _ _

/-- Settles O40: which registers hold whole decides what each reads after the write. -/
theorem regWriteOpaqueResult : Obligations.RegWriteOpaqueResult := by
  intro s a v hmin ha hknown hcall
  refine ⟨_, execRegWrite_opaque hmin (Cfg.feHas_iff.mpr ha) hcall hknown, rfl, fun ch hr => ?_,
    fun r hr hne hall => ?_, fun r hr hforce hfree => ?_, ?_⟩
  · rw [State.respond_feAt]
    exact opaqueWritten_setFe_feAt_of_holds (s := s.after [.spiWrite a v]) hknown hr
      (s.holdsWhole_forceReg ch)
  · have hholds := (s.holdsWhole_iff _).mpr (.inr ⟨hne, hall⟩)
    rw [State.respond_feAt]
    exact opaqueWritten_setFe_feAt_of_holds (s := s.after [.spiWrite a v]) hknown hr hholds
  · have hholds : s.holdsWhole r.toNat = false := by
      rw [Bool.eq_false_iff, ne_eq, s.holdsWhole_iff, hforce]
      rintro (hf | ⟨hne, hall⟩)
      · cases hf
      · rcases hfree with hnil | ⟨f, hf, hunforced⟩
        · exact hne hnil
        · simp [hall f hf] at hunforced
    rw [State.respond_feAt]
    exact opaqueWritten_setFe_feAt_of_not_holds (s := s.after [.spiWrite a v]) hknown hr hholds
  · apply State.ext <;> simp

/-! `SET_CORRECTION`. -/

section SetCorrection

variable {s t : State} {a r : RegAddr} {x : Byte}

theorem spiRead_feAt (h : s.feAt a = x) : (spiRead r s).leaves fun u => u.feAt a = x :=
  spiRead_leaves h

theorem spiWrite_feAt_ne {v : Byte} (hne : a ≠ r) (h : s.feAt a = x) :
    (spiWrite r v s).leaves fun u => u.feAt a = x := by
  have hput (w : Byte) : feGet (fePut s.fe r.toNat w) a.toNat = x := by
    rw [feGet_fePut_ne _ _ fun heq => hne (BitVec.eq_of_toNat_eq heq)]
    exact h
  exact spiWrite_leaves (fun _ => hput _) fun _ => hput _

/-- Storing a correction leaves every register it is not stored in. -/
theorem writeCorr_feAt {slot : Slot} {b : CorrBand} (v : BitVec 16) (ha : a ∉ slot.regs b)
    (h : s.feAt a = x) : (writeCorr slot b v s).leaves fun u => u.feAt a = x := by
  cases slot with
  | single e => exact spiWrite_feAt_ne (by simpa [Slot.regs] using ha) h
  | pair e =>
    obtain ⟨htop, hbot⟩ : a ≠ (e.reg.get b).top ∧ a ≠ (e.reg.get b).bot := by
      simpa [Slot.regs] using ha
    exact Res.leaves_bind (spiRead_feAt h) fun _ _ _ h =>
      Res.leaves_bind (spiRead_feAt h) fun _ _ _ h =>
      Res.leaves_bind (spiWrite_feAt_ne htop h) fun _ _ _ h => spiWrite_feAt_ne hbot h

theorem corrBandNow_eq_done {d : Dir} {b : CorrBand} (h : corrBandNow d s = .done b t) :
    s.cfg.corrBandOfPort d (s.port.get d) = some b ∧ t = s.after [.phyGetPort d] := by
  obtain ⟨p, u, hport, h⟩ := Res.bind_eq_done h
  obtain ⟨-, rfl, rfl⟩ := phyGetPort_eq_done hport
  split at h
  · next hband =>
    cases h
    exact ⟨hband, rfl⟩
  · cases h

theorem forceSet_eq_done {c : Chan} {k : Kind} {b : CorrBand} (h : forceSet c k b s = .done () t) :
    t.fe = fePut s.fe (s.cfg.forceReg.get c).toNat
      (withForceBit (s.cfg.forceBitOf c k b) (s.feAt (s.cfg.forceReg.get c))) := by
  obtain ⟨y, u, hread, h⟩ := Res.bind_eq_done h
  obtain ⟨-, -, rfl, rfl⟩ := spiRead_eq_done hread
  obtain ⟨-, -, rfl⟩ := spiWrite_eq_done h
  rfl

/-- A successful `SET_CORRECTION` asks for the port, stores the value and sets the force bit. -/
theorem execSetCorrection_succeeded {ch kd : BitVec 8} {v : BitVec 16} {c : Chan} {k : Kind}
    {b : CorrBand} (hch : Chan.ofCode ch = some c) (hkd : Kind.ofCode kd = some k)
    (hband : s.cfg.corrBandOfPort c.dir (s.port.get c.dir) = some b)
    (h : execSetCorrection ch kd v s = .next t) (hc : t.cfg.legal = true) (ht : t.succeeded) :
    ∃ u w, writeCorr (s.cfg.slot c k) b v (s.after [.phyGetPort c.dir]) = .done () u
      ∧ forceSet c k b u = .done () w ∧ t = w.respond 0 0 := by
  obtain ⟨_, _, hdone, rfl⟩ := chanCommand_succeeded hch h hc ht
  rw [withKind_passes hkd] at hdone
  obtain ⟨b', _, hnow, hdone⟩ := Res.bind_eq_done hdone
  obtain ⟨hb', rfl⟩ := corrBandNow_eq_done hnow
  obtain rfl : b = b' := by simpa [hband] using hb'
  obtain ⟨⟨⟩, u, hwrite, hdone⟩ := Res.bind_eq_done hdone
  obtain ⟨⟨⟩, w, hforce, ⟨⟩⟩ := Res.bind_eq_done hdone
  exact ⟨u, _, hwrite, hforce, rfl⟩

/-- The force register of the correction has its bit set, every other force register stays: the value
goes to registers apart from them. -/
theorem execSetCorrection_forceReg {ch kd : BitVec 8} {v : BitVec 16} {c : Chan} {k : Kind}
    {b : CorrBand} (hs : s.Inv) (hch : Chan.ofCode ch = some c) (hkd : Kind.ofCode kd = some k)
    (hband : s.cfg.corrBandOfPort c.dir (s.port.get c.dir) = some b)
    (hapart : s.cfg.slotApart c k b = true) (h : execSetCorrection ch kd v s = .next t)
    (ht : t.succeeded) (ch' : Chan) :
    t.feAt (s.cfg.forceReg.get ch') =
      if s.cfg.forceReg.get ch' = s.cfg.forceReg.get c then
        withForceBit (s.cfg.forceBitOf c k b) (s.feAt (s.cfg.forceReg.get c))
      else s.feAt (s.cfg.forceReg.get ch') := by
  have hlegal : t.cfg.legal = true := exec_cfg (i := .setCorrection ch kd v) h ▸ hs.cfgLegal
  obtain ⟨u, w, hwrite, hforce, rfl⟩ := execSetCorrection_succeeded hch hkd hband h hlegal ht
  have hkept : Kept s u := by
    have hkeeps := writeCorr_keeps b v ((Kept.refl s).after [.phyGetPort c.dir])
      fun hc => Cfg.legal_slotLegal hc c k
    rw [hwrite] at hkeeps
    exact hkeeps.1
  have hregs (ch' : Chan) : u.feAt (s.cfg.forceReg.get ch') = s.feAt (s.cfg.forceReg.get ch') := by
    have hleaves := writeCorr_feAt v (Cfg.slotApart_regs hapart ch') (s.after_feAt [.phyGetPort c.dir])
    rwa [hwrite] at hleaves
  have hget := feGet_fePut (hkept.inv hs).feCanonical (s.cfg.forceReg.get c).toNat
    (s.cfg.forceReg.get ch').toNat
  rw [State.respond_feAt, State.feAt, forceSet_eq_done hforce, hkept.cfg, hregs, hget, ← hregs ch']
  simp only [BitVec.toNat_inj]
  rfl

theorem getLsbD_withForceBit {n : Nat} (hn : n < 8) (y : Byte) :
    (withForceBit n y).getLsbD n = true := by
  simp [withForceBit, hn]

theorem getLsbD_withForceBit_of {n i : Nat} {y : Byte} (h : y.getLsbD i = true) :
    (withForceBit n y).getLsbD i = true := by
  simp [withForceBit, h]

end SetCorrection

/-- Settles O52: a force register is written with one bit set or not at all. -/
theorem setCorrectionClearsNoForceBit : Obligations.SetCorrectionClearsNoForceBit := by
  intro s t ch kd v c k b hs hch hkd hband hapart h ht
  have hreg := execSetCorrection_forceReg hs hch hkd hband hapart h ht
  constructor
  · rw [State.forced, exec_cfg h, hreg c, if_pos rfl]
    exact getLsbD_withForceBit (Cfg.legal_forceBit hs.cfgLegal c k b) _
  · intro ch' n hn
    rw [hreg ch']
    split
    · next heq => exact getLsbD_withForceBit_of (heq ▸ hn)
    · exact hn

end Machine

end Sys2Proof
end

-- Bring-up: a successful INIT, the boot sequence, and the two events that reset the board.
section
/-!
SUPPORT and PROOFS. The calls of a successful `INIT` and the state it leaves, and the statements
`InitResult`, `BootSequence`, `ResetEventsClearBoard`.
-/

namespace Sys2Proof

namespace Machine

section Init

variable {s : State} {c : Chan}

/-- The calls still to come succeed where the first `k` of those that do are behind. -/
theorem State.nextCallsSucceed_of_drop {u : State} {k m n : Nat} (h : s.nextCallsSucceed n)
    (hu : u.replies = s.replies.drop k) (hk : k + m ≤ n) : u.nextCallsSucceed m := by
  intro r hr
  rw [hu, List.take_drop] at hr
  exact h r (List.take_subset_take_left s.replies hk (List.mem_of_mem_drop hr))

theorem selectBand_succeeds (f : Freq) (h : s.nextCallsSucceed 3) :
    selectBand c f s = .done () (bandSelected c f s) := by
  have hread := State.nextStatus_nonneg h (by decide)
  have hport := State.after_nextStatus_nonneg h [.rffeRead] (by simp)
  have hwrite (p : PortId) :
      0 ≤ ((s.after [.rffeRead, .phySetPort c.dir p]).withPort c.dir p).nextStatus :=
    State.after_nextStatus_nonneg h [.rffeRead, .phySetPort c.dir p] (by simp)
  simp [selectBand, bandSelected, State.enabled, rffeRead_succeeds hread, phySetPort_succeeds hport,
    rffeWrite_succeeds (hwrite _)]

/-- Priming a disabled direction: its frequency is read, and it gets the Shutdown port and code
(40_bringup rule R114). -/
theorem primeBand_succeeds (hc : s.cfg.legal = true) (hoff : s.enabled c.dir = false)
    (h : s.nextCallsSucceed 4) :
    primeBand c s = .done () (((s.after [.phyGetLo c.dir, .rffeRead, .phySetPort c.dir 0,
      .rffeWrite (s.cfg.withAntenna c.dir .shutdown s.rffe)]).withPort c.dir 0).withRffe
        (s.cfg.withAntenna c.dir .shutdown s.rffe)) := by
  have hlo := State.nextStatus_nonneg h (by decide)
  have hrest := State.nextCallsSucceed_after (m := 3) h [.phyGetLo c.dir] (by simp)
  rw [primeBand, phyGetLo_succeeds hlo, Res.bind_done, selectBand_succeeds _ hrest]
  have hoff' : (s.after [.phyGetLo c.dir]).enabled c.dir = false := hoff
  simp [bandSelected, hoff', Cfg.bandFor, Cfg.legal_shutdownPort hc]

/-- The RFFE register after `INIT`. -/
def initRffe (c : Cfg) : Rffe :=
  c.withAntenna .tx .shutdown (c.withAntenna .rx .shutdown c.rffeInit)

/-- The calls of a successful `INIT`, in order (40_bringup rule R114). -/
def initCalls (c : Cfg) : List Call :=
  [.rffeWrite c.rffeInit,
    .phyGetLo .rx, .rffeRead, .phySetPort .rx 0, .rffeWrite (c.withAntenna .rx .shutdown c.rffeInit),
    .phyGetLo .tx, .rffeRead, .phySetPort .tx 0, .rffeWrite (initRffe c)]

theorem execInit_succeeds (hc : s.cfg.legal = true)
    (hmin : BoardState.fpgaLoaded.code ≤ s.bstate.code) (h : s.nextCallsSucceed 9) :
    execInit s = .next ((((((constructFrontEnd (s.after (initCalls s.cfg))).withPort .rx 0).withPort
      .tx 0).withRffe (initRffe s.cfg)).withBstate .initialized).respond 0 0) := by
  obtain ⟨-, hoff⟩ := Cfg.legal_rffeInit hc
  rw [execInit, gate_passes hmin, rffeWrite_succeeds (State.nextStatus_nonneg h (by decide)),
    Res.bind_done, primeBand_succeeds, Res.bind_done, primeBand_succeeds, Res.bind_done, answer_done]
  · simp [initCalls, initRffe, Chan.dir]
    rfl
  -- What priming the transmit side needs: a legal configuration, the side disabled, four calls.
  · simpa using hc
  · simpa [State.enabled, Chan.dir, Cfg.enabledIn_withAntenna _ _ hc] using hoff .tx
  · exact State.nextCallsSucceed_of_drop h (k := 5) (by simp) (by decide)
  -- The same for the receive side.
  · simpa using hc
  · simpa [State.enabled, Chan.dir] using hoff .rx
  · exact State.nextCallsSucceed_of_drop h (k := 1) (by simp) (by decide)

theorem enabledIn_initRffe {c : Cfg} (hc : c.legal = true) (d : Dir) :
    c.enabledIn d (initRffe c) = false := by
  rw [initRffe, Cfg.enabledIn_withAntenna _ _ hc, Cfg.enabledIn_withAntenna _ _ hc]
  exact (Cfg.legal_rffeInit hc).2 d

theorem antennaIn_initRffe {c : Cfg} (hc : c.legal = true) (d : Dir) :
    c.antennaIn d (initRffe c) = c.antCodeOf d .shutdown := by
  cases d with
  | tx => exact Cfg.antennaIn_withAntenna _ _ hc
  | rx =>
    rw [initRffe, Cfg.antennaIn_withAntenna_ne (d := .tx) (d' := .rx) _ _ hc nofun]
    exact Cfg.antennaIn_withAntenna _ _ hc

end Init

/-- Settles O24: the whole next state is that of `execInit_succeeds`. -/
theorem initResult : Obligations.InitResult := by
  intro s hc hmin hcalls
  refine ⟨_, execInit_succeeds hc hmin hcalls, rfl, rfl, fun d => ?_, rfl, by simp, rfl,
    fun a ha => ?_, ?_⟩
  · simp [State.enabled, State.antenna, enabledIn_initRffe hc, antennaIn_initRffe hc]
  · simpa [constructFrontEnd_fe] using feGet_feRefresh_free s.freeCount s.fe ha rfl
  · apply State.ext <;> simp [initCalls, initRffe]

/-! The boot sequence. -/

section Boot

variable {s : State} {rest : List Command}

theorem State.le_advanceTo (s : State) (b : BoardState) : b.code ≤ (s.advanceTo b).bstate.code := by
  rw [State.advanceTo_bstate]
  split
  · exact le_rfl
  · omega

theorem execFpgaLoaded_succeeds (h : BoardState.firmwareLoaded.code ≤ s.bstate.code) :
    execFpgaLoaded s = .next
      ((((s.advanceTo .fpgaLoaded).freeRffe.freeModEn .rx).freeModEn .tx).respond 0 0) := by
  rw [execFpgaLoaded, gate_passes h, answer_done]

/-- What a step of the boot sequence before `INIT` leaves for the next one: it has answered success,
the board has come as far as `b`, and the fields the sequence depends on are as before. -/
structure Booted (b : BoardState) (s t : State) : Prop where
  response : t.response = some ⟨0, 0⟩
  bstate : b.code ≤ t.bstate.code
  cfg : t.cfg = s.cfg
  pending : t.pending = s.pending.tail
  syncHandle : t.syncHandle = s.syncHandle
  replies : t.replies = s.replies

theorem step_fwDetected (hp : s.pending = encode .fwDetected :: rest) :
    ∃ t, step s = .next t ∧ Booted .firmwareLoaded s t :=
  ⟨_, step_of_decode_ok hp rfl, by constructor <;> simp [State.le_advanceTo]⟩

theorem step_fpgaLoaded (hp : s.pending = encode .fpgaLoaded :: rest)
    (hb : BoardState.firmwareLoaded.code ≤ s.bstate.code) :
    ∃ t, step s = .next t ∧ Booted .fpgaLoaded s t := by
  refine ⟨_, (step_of_decode_ok hp rfl).trans (execFpgaLoaded_succeeds ?_), ?_⟩
  · simpa using hb
  · constructor <;> simp [State.le_advanceTo]

end Boot

/-- Settles O55: the first two steps bring the board to `FpgaLoaded` and leave what `INIT` needs, and
`initResult` says what the third does. -/
theorem bootSequence : Obligations.BootSequence := by
  intro s rest hc hp hcalls
  obtain ⟨t, hstep, ht⟩ := step_fwDetected hp
  obtain ⟨u, hstep', hu⟩ := step_fpgaLoaded (ht.pending.trans (by rw [hp]; rfl)) ht.bstate
  have hcfg : u.commandStart.cfg = s.cfg := by simp [hu.cfg, ht.cfg]
  have hpending : u.pending = encode .init :: rest := by simp [hu.pending, ht.pending, hp]
  have hreplies : u.commandStart.replies = s.replies := by simp [hu.replies, ht.replies]
  obtain ⟨w, hinit, hbstate, hrffe, hdirs, hport, hlo, hresponse, -, hframe⟩ :=
    initResult u.commandStart (hcfg ▸ hc) (by simpa using hu.bstate)
      (State.nextCallsSucceed_of_replies hreplies hcalls)
  have hwpending := congrArg State.pending hframe
  have hwhandle := congrArg State.syncHandle hframe
  rw [hcfg] at hrffe hlo hdirs
  refine ⟨t, u, w, hstep, ht.response, hstep', hu.response,
    (step_of_decode_ok hpending rfl).trans hinit, hresponse, hbstate, ?_, ?_, hrffe, fun d => ?_⟩
  · simpa [hpending] using hwpending
  · simpa [hu.syncHandle, ht.syncHandle] using hwhandle
  · obtain ⟨hoff, hcode⟩ := hdirs d
    refine ⟨hoff, hcode, ?_, by rw [hlo]⟩
    rw [hport]
    cases d <;> rfl

/-- Settles O13: open by the reset values, `CLOSE` by its last three updates. -/
theorem resetEventsClearBoard : Obligations.ResetEventsClearBoard :=
  ⟨⟨rfl, rfl⟩, fun s => ⟨_, rfl, rfl, by simp [PerDir.set]⟩⟩

end Machine

end Sys2Proof
end

-- The state a command finds, and a register written by one command and read by the next.
section
/-!
SUPPORT and PROOFS. What a word decodes to and what the step makes of it, and the statements that follow:
`StepRunsDecodedCommand`, `UnknownOpcodeAnswersInvalid`, `ForceRegisterWriteThenRead`.
-/

namespace Sys2Proof

/-! Decoding, as far as the statements need it. -/

/-- A word that decodes carries the opcode of its command (30_encoding rule R84). -/
theorem op_of_decode_ok {c : Command} {i : Instr} (h : decode c = .ok i) :
    c.op = Laws.OpByte.opcode i := by
  unfold decode at h
  split at h <;> cases h
  all_goals exact BitVec.eq_of_toNat_eq ‹_›

theorem opcode_mem_opcodes (i : Instr) : Laws.OpByte.opcode i ∈ opcodes := by
  cases i <;> simp [Laws.OpByte.opcode, opcodes]

/-- Outside the opcode map no word decodes (30_encoding rule R83 a). -/
theorem decode_error_of_op {c : Command} (h : c.op ∉ opcodes) : ∃ e, decode c = .error e := by
  cases hd : decode c with
  | error e => exact ⟨e, rfl⟩
  | ok i => exact absurd (op_of_decode_ok hd ▸ opcode_mem_opcodes i) h

theorem addr_encode_regRead (a : RegAddr) : (encode (.regRead a)).addr = a := by
  apply BitVec.eq_of_getLsbD_eq
  intro i hi
  simp [encode, Command.addr, hi, hi.trans (show 16 < 64 by decide)]

theorem addr_encode_regWrite (a : RegAddr) (v : Byte) : (encode (.regWrite a v)).addr = a := by
  apply BitVec.eq_of_getLsbD_eq
  intro i hi
  simp only [encode, Command.addr, BitVec.getLsbD_extractLsb', BitVec.getLsbD_setWidth,
    BitVec.getLsbD_append]
  simp [hi, hi.trans (show 16 < 64 by decide)]

theorem data_encode_regWrite (a : RegAddr) (v : Byte) : (encode (.regWrite a v)).data = v := by
  apply BitVec.eq_of_getLsbD_eq
  intro i hi
  simp only [encode, Command.data, BitVec.getLsbD_extractLsb', BitVec.getLsbD_setWidth,
    BitVec.getLsbD_append]
  simp [hi, show 16 + i < 64 by omega]

theorem decode_encode_regRead (a : RegAddr) : decode (encode (.regRead a)) = .ok (.regRead a) := by
  rw [decode, show (encode (.regRead a)).op = 0x40 from Laws.OpByte.regRead a]
  simp [addr_encode_regRead]

theorem decode_encode_regWrite (a : RegAddr) (v : Byte) :
    decode (encode (.regWrite a v)) = .ok (.regWrite a v) := by
  rw [decode, show (encode (.regWrite a v)).op = 0x41 from Laws.OpByte.regWrite a v]
  simp [addr_encode_regWrite, data_encode_regWrite]

theorem Cfg.knownReg_forceReg (c : Cfg) (ch : Chan) :
    c.knownReg (c.forceReg.get ch).toNat = true := by
  simp [Cfg.knownReg, Cfg.isForceReg_forceReg]

theorem BoardState.code_le_initialized (b : BoardState) : b.code ≤ BoardState.initialized.code := by
  cases b <;> decide

namespace Machine

/-- The state a command finds differs from the state before in the word that has left the port, the
front end's registers and the counter of free values (20_memory rule R62, log 8). -/
theorem State.commandStart_frame (s : State) :
    { s.commandStart with pending := s.pending, fe := s.fe, freeCount := s.freeCount } = s := by
  apply State.ext <;> simp

/-- Settles O5: the frame of the state the command finds, and the step's branch for a word that decodes. -/
theorem stepRunsDecodedCommand : Obligations.StepRunsDecodedCommand := by
  intro s c rest hp
  exact ⟨by simp [hp], s.commandStart_frame, fun i hi => step_of_decode_ok hp hi⟩

/-- Settles O7: such a word does not decode, so the step only takes it and answers. -/
theorem unknownOpcodeAnswersInvalid : Obligations.UnknownOpcodeAnswersInvalid := by
  intro s c rest hp hop
  obtain ⟨e, he⟩ := decode_error_of_op hop
  refine ⟨step_of_decode_error hp he, by simp [hp], ?_⟩
  apply State.ext <;> simp

/-! A force register written and read back. -/

section ForceRegister

variable {s : State} {a : RegAddr} {ch : Chan}

/-- A register read that passes the checks and whose call succeeds (44_lowlevel rule R223). -/
theorem execRegRead_succeeds (hmin : s.cfg.regMinState.code ≤ s.bstate.code)
    (ha : s.cfg.feHas a = true) (hcall : s.nextCallsSucceed 1) :
    execRegRead a s = .next ((s.after [.spiRead a]).respond 0 ((s.feAt a).setWidth 64)) := by
  simp [execRegRead, withRegister, gate_passes hmin, ha,
    spiRead_succeeds ha (State.nextStatus_nonneg hcall Nat.one_pos)]

/-- Between two commands a force register stays as it is (log 11). -/
theorem State.commandStart_feAt_forceReg (hc : s.cfg.legal = true) (hb : s.bstate = .initialized)
    (ch : Chan) : s.commandStart.feAt (s.cfg.forceReg.get ch) = s.feAt (s.cfg.forceReg.get ch) :=
  (forcedCorrectionsHoldBetweenCommands s hb).1 ch (Cfg.legal_forceReg hc ch)

end ForceRegister

/-- Settles O53: the first step stores the byte, the front end leaves a force register alone, the second
step reads it. -/
theorem forceRegisterWriteThenRead : Obligations.ForceRegisterWriteThenRead := by
  intro s ch v rest hs hb hp hcalls
  have hlegal := hs.cfgLegal
  have hmin : s.cfg.regMinState.code ≤ s.bstate.code := hb ▸ BoardState.code_le_initialized _
  have hreg := Cfg.legal_forceReg hlegal ch
  obtain ⟨t, hwrite, hresponse, hfe, hframe⟩ :=
    regWriteKnownResult s.commandStart (s.cfg.forceReg.get ch) v ((Kept.commandStart s).inv hs.taken)
      (by simpa using hmin) (by simpa using Cfg.feHas_iff.mp hreg)
      (by simpa using Cfg.knownReg_forceReg s.cfg ch)
      (State.nextCallsSucceed_of_drop hcalls (k := 0) (by simp) (by decide))
  have hcfg : t.cfg = s.cfg := by simpa using congrArg State.cfg hframe
  have hbstate : t.bstate = s.bstate := by simpa using congrArg State.bstate hframe
  have hreplies : t.replies = s.replies.drop 1 := by simpa using congrArg State.replies hframe
  have hpending : t.pending = encode (.regRead (s.cfg.forceReg.get ch)) :: rest := by
    simpa [hp] using congrArg State.pending hframe
  have hheld : t.commandStart.feAt (s.cfg.forceReg.get ch) = v := by
    rw [← hcfg, State.commandStart_feAt_forceReg (hcfg ▸ hlegal) (hbstate.trans hb), hcfg]
    exact (hfe _).trans (if_pos rfl)
  have hread := execRegRead_succeeds (s := t.commandStart) (a := s.cfg.forceReg.get ch)
    (by simpa [hcfg, hbstate] using hmin) (by simpa [hcfg] using hreg)
    (State.nextCallsSucceed_of_drop hcalls (k := 1) (by simpa using hreplies) (by decide))
  refine ⟨t, _, (step_of_decode_ok hp (decode_encode_regWrite _ v)).trans hwrite, hresponse,
    (step_of_decode_ok hpending (decode_encode_regRead _)).trans hread, ?_⟩
  rw [hheld, State.respond_response, BitVec.ofNat_toNat]

end Machine

end Sys2Proof
end

-- What a command leaves where one of its calls fails: band selection and the module commands.
section
/-!
SUPPORT and PROOFS. The call at which a command stops (`State.FailsAt`), what band selection leaves there
(`bandStop`), and the statements `SelectBandFailureWindow`, `EnableModuleFailureWindow`,
`DisableModuleFailureWindow`.
-/

namespace Sys2Proof

namespace Machine

section FailsAt

variable {s u : State} {k m : Nat} {q : Int}

/-- The next `k` calls succeed and the one after them fails with the status `q`. -/
structure State.FailsAt (s : State) (k : Nat) (q : Int) : Prop where
  before : s.nextCallsSucceed k
  status : s.replies[k]? = some q
  negative : q < 0

theorem State.nextCallsSucceed_zero (s : State) : s.nextCallsSucceed 0 := by
  simp [State.nextCallsSucceed]

/-- The next call's status by its place in the list of replies; past the end it is success (log 5). -/
theorem State.nextStatus_eq_getElem (s : State) : s.nextStatus = s.replies[0]?.getD 0 := by
  simp [State.nextStatus_eq, List.head?_eq_getElem?]

/-- Each of the next `k` calls that succeed finds no negative status. -/
theorem State.reply_nonneg (h : s.nextCallsSucceed k) (n : Nat) (hn : n < k) :
    0 ≤ s.replies[n]?.getD 0 := by
  cases hr : s.replies[n]? with
  | none => exact le_rfl
  | some r =>
    obtain ⟨hlen, hget⟩ := List.getElem?_eq_some_iff.mp hr
    exact h r (List.mem_take_iff_getElem.mpr ⟨n, by omega, hget⟩)

namespace State.FailsAt

theorem of_first (h : s.replies[0]? = some q) (hq : q < 0) : s.FailsAt 0 q :=
  ⟨s.nextCallsSucceed_zero, h, hq⟩

theorem goes (h : s.FailsAt k q) (n : Nat) (hn : n < k) : 0 ≤ s.replies[n]?.getD 0 :=
  State.reply_nonneg h.before n hn

/-- Where `m` of the calls that succeed are behind, the failing one is `m` calls nearer. -/
theorem of_drop (h : s.FailsAt (k + m) q) (hu : u.replies = s.replies.drop m) : u.FailsAt k q where
  before := State.nextCallsSucceed_of_drop h.before hu (Nat.add_comm m k).le
  status := by rw [hu, List.getElem?_drop, Nat.add_comm, h.status]
  negative := h.negative

end State.FailsAt

end FailsAt

/-! Band selection. -/

section SelectBand

variable {s : State} {k : Nat} {q : Int} {c : Chan} {f : Freq}

/-- What selecting the port `p` and the RFFE value `r` for a direction leaves where call number `k`, the
first one number 0, fails (41_band_port rule R135): the steps before it, and any value in its target if
it writes. -/
def selectionStop (k : Nat) (d : Dir) (p : PortId) (r : Rffe) (s : State) : State :=
  match k with
  | 0 => s.after [.rffeRead]
  | 1 => (s.after [.rffeRead, .phySetPort d p]).freePort d
  | _ => ((s.after [.rffeRead, .phySetPort d p, .rffeWrite r]).withPort d p).freeRffe

/-- What `SelectBand` leaves where its call number `k` fails. -/
def bandStop (k : Nat) (c : Chan) (f : Freq) (s : State) : State :=
  let b := s.cfg.bandFor c.dir (s.enabled c.dir) f
  selectionStop k c.dir (s.cfg.portOf c.dir b) (s.cfg.withAntenna c.dir b s.rffe) s

theorem selectBand_stops (h : s.FailsAt k q) (hk : k < 3) :
    selectBand c f s = .raised (s.cfg.translate q) (bandStop k c f s) := by
  match k, hk with
  | 0, _ =>
    simp [selectBand, bandStop, selectionStop, rffeRead_fails, State.nextStatus_eq_getElem, h.status,
      h.negative]
  | 1, _ =>
    simp [selectBand, bandStop, selectionStop, State.enabled, rffeRead_succeeds, phySetPort_fails,
      State.nextStatus_eq_getElem, h.goes, h.status, h.negative]
  | 2, _ =>
    simp [selectBand, bandStop, selectionStop, State.enabled, rffeRead_succeeds, phySetPort_succeeds,
      rffeWrite_fails, State.nextStatus_eq_getElem, h.goes, h.status, h.negative]

theorem execSelectBand_stops {ch : BitVec 8} (hmin : BoardState.fpgaLoaded.code ≤ s.bstate.code)
    (hch : Chan.ofCode ch = some c) (h : s.FailsAt k q) (hk : k < 3) :
    exec (.selectBand ch f) s = .next ((bandStop k c f s).fail (s.cfg.translate q)) := by
  simp [exec, execSelectBand, gate_passes hmin, withChan_passes hch, selectBand_stops h hk]

end SelectBand

/-- Settles O56: `bandStop` at each of the three calls. -/
theorem selectBandFailureWindow : Obligations.SelectBandFailureWindow := by
  intro s ch c f q hmin hch hq b p r
  exact ⟨fun h => execSelectBand_stops hmin hch (.of_first h hq) (by decide),
    fun hok h => ⟨_, execSelectBand_stops hmin hch ⟨hok, h, hq⟩ (by decide)⟩,
    fun hok h => ⟨_, Nat.mod_lt _ (Nat.two_pow_pos _),
      execSelectBand_stops hmin hch ⟨hok, h, hq⟩ (by decide)⟩⟩

/-! The module commands. In each case the calls that succeed and the one that fails are listed in the
order they are made. -/

/-- Settles O57, call by call. -/
theorem enableModuleFailureWindow : Obligations.EnableModuleFailureWindow := by
  intro s ch c q hb hch hq
  have hmin : BoardState.initialized.code ≤ s.bstate.code := hb ▸ le_rfl
  simp only [exec, execEnableModule, gate_passes hmin, withChan_passes hch, Cfg.bandFor,
    moduleRffe, if_true]
  refine ⟨fun h => ?_, fun hok h => ⟨Config.freePort s.freeCount c.dir, ?_⟩, fun hok h => ?_,
    fun hok h => ⟨Config.freeRffe s.freeCount % 2 ^ s.cfg.rffeBits,
      Nat.mod_lt _ (Nat.two_pow_pos _), ?_⟩, fun hok h => ⟨Config.freeModEn s.freeCount c.dir, ?_⟩⟩
  · simp [phyGetLo_fails, State.nextStatus_eq_getElem, h, hq]
  · have hf : s.FailsAt 1 q := ⟨hok, h, hq⟩
    simp [phyGetLo_succeeds, phySetPort_fails, State.nextStatus_eq_getElem, hf.goes, h, hq,
      State.freePort]
  · have hf : s.FailsAt 2 q := ⟨hok, h, hq⟩
    simp [phyGetLo_succeeds, phySetPort_succeeds, rffeRead_fails, State.nextStatus_eq_getElem, hf.goes,
      h, hq]
  · have hf : s.FailsAt 3 q := ⟨hok, h, hq⟩
    simp [phyGetLo_succeeds, phySetPort_succeeds, rffeRead_succeeds, rffeWrite_fails,
      State.nextStatus_eq_getElem, hf.goes, h, hq, State.freeRffe]
  · have hf : s.FailsAt 4 q := ⟨hok, h, hq⟩
    simp [phyGetLo_succeeds, phySetPort_succeeds, rffeRead_succeeds, rffeWrite_succeeds,
      backendEnable_fails, State.nextStatus_eq_getElem, hf.goes, h, hq, State.freeModEn]

/-- Settles O58: the teardown has no status to fail with (20_memory rule R60), and what follows is read
call by call. -/
theorem disableModuleFailureWindow : Obligations.DisableModuleFailureWindow := by
  intro s ch c q hb hch hq
  have hmin : BoardState.initialized.code ≤ s.bstate.code := hb ▸ le_rfl
  simp only [exec, execDisableModule, gate_passes hmin, withChan_passes hch, streamTeardown,
    moduleRffe]
  refine ⟨fun h => ?_, fun hok h => ⟨Config.freeRffe s.freeCount % 2 ^ s.cfg.rffeBits,
      Nat.mod_lt _ (Nat.two_pow_pos _), ?_⟩, fun hok h => ⟨Config.freeModEn s.freeCount c.dir, ?_⟩⟩
  · simp [rffeRead_fails, State.nextStatus_eq_getElem, h, hq]
  · have hf : s.FailsAt 1 q := ⟨hok, h, hq⟩
    simp [rffeRead_succeeds, rffeWrite_fails, State.nextStatus_eq_getElem, hf.goes, h, hq,
      State.freeRffe]
  · have hf : s.FailsAt 2 q := ⟨hok, h, hq⟩
    simp [rffeRead_succeeds, rffeWrite_succeeds, backendEnable_fails, State.nextStatus_eq_getElem,
      hf.goes, h, hq, State.freeModEn]

end Machine

end Sys2Proof
end

-- What INIT leaves where one of its calls fails.
section
/-!
SUPPORT and PROOFS. What one half of the priming of `INIT` leaves where one of its four calls fails
(`PrimingStopped`), where in `INIT` its nine calls fall (40_bringup rule R114), and the statement
`InitFailureWindow`.
-/

namespace Sys2Proof

namespace Machine

/-! One half of the priming. -/

section Priming

variable {s t : State} {k : Nat} {q : Int} {c : Chan}

/-- The calls that prime the disabled direction of `c`, whose register reads `r`. -/
def primeCalls (cfg : Cfg) (c : Chan) (r : Rffe) : List Call :=
  [.phyGetLo c.dir, .rffeRead, .phySetPort c.dir 0, .rffeWrite (cfg.withAntenna c.dir .shutdown r)]

/-- `t` is what priming the direction of `c` leaves of `s` where its call number `k` fails: only the
direction's port and the RFFE register may have changed, each any value where it was the target of the
failed call. -/
structure PrimingStopped (k : Nat) (c : Chan) (s t : State) : Prop where
  rffe_lt : s.rffe < 2 ^ s.cfg.rffeBits → t.rffe < 2 ^ s.cfg.rffeBits
  rffe : k < 3 → t.rffe = s.rffe
  port : 3 ≤ k → t.port.get c.dir = 0
  port_ne : ∀ d, d ≠ c.dir → t.port.get d = s.port.get d
  frame : { t with rffe := s.rffe, port := s.port, freeCount := s.freeCount }
    = s.after ((primeCalls s.cfg c s.rffe).take (k + 1))

namespace PrimingStopped

theorem cfg (h : PrimingStopped k c s t) : t.cfg = s.cfg :=
  have heq := congrArg State.cfg h.frame
  heq

theorem fe (h : PrimingStopped k c s t) : t.fe = s.fe :=
  have heq := congrArg State.fe h.frame
  heq

theorem loFreq (h : PrimingStopped k c s t) : t.loFreq = s.loFreq :=
  have heq := congrArg State.loFreq h.frame
  heq

end PrimingStopped

/-- A disabled direction is primed with the Shutdown port and code (40_bringup rule R114). -/
theorem bandStop_of_disabled (hc : s.cfg.legal = true) (hoff : s.enabled c.dir = false) (f : Freq) :
    bandStop k c f s
      = selectionStop k c.dir 0 (s.cfg.withAntenna c.dir .shutdown s.rffe) s := by
  simp [bandStop, hoff, Cfg.bandFor, Cfg.legal_shutdownPort hc]

theorem selectionStop_frame {d : Dir} {p : PortId} {r : Rffe} (hk : k < 3) :
    { selectionStop k d p r s with rffe := s.rffe, port := s.port, freeCount := s.freeCount }
      = s.after ([.rffeRead, .phySetPort d p, .rffeWrite r].take (k + 1)) := by
  match k, hk with
  | 0, _ | 1, _ | 2, _ => rfl

/-- A selection that stops after the frequency was read is a priming that stops one call later. -/
theorem selectionStop_primingStopped (hk : k < 3) :
    PrimingStopped (k + 1) c s (selectionStop k c.dir 0 (s.cfg.withAntenna c.dir .shutdown s.rffe)
      (s.after [.phyGetLo c.dir])) := by
  have hframe := (selectionStop_frame (s := s.after [.phyGetLo c.dir]) (d := c.dir) (p := 0)
    (r := s.cfg.withAntenna c.dir .shutdown s.rffe) hk).trans (State.after_after s _ _)
  obtain rfl | rfl | rfl : k = 0 ∨ k = 1 ∨ k = 2 := by omega
  · exact ⟨id, fun _ => rfl, by omega, fun _ _ => rfl, hframe⟩
  · exact ⟨id, fun _ => rfl, by omega, fun _ => PerDir.get_set_ne _ _, hframe⟩
  · exact ⟨fun _ => Nat.mod_lt _ (Nat.two_pow_pos _), by omega, fun _ => PerDir.get_set_self _ _ _,
      fun _ => PerDir.get_set_ne _ _, hframe⟩

theorem primeBand_stops (hc : s.cfg.legal = true) (hoff : s.enabled c.dir = false)
    (h : s.FailsAt k q) (hk : k < 4) :
    ∃ t, primeBand c s = .raised (s.cfg.translate q) t ∧ PrimingStopped k c s t := by
  cases k with
  | zero =>
    refine ⟨s.after [.phyGetLo c.dir], ?_, ⟨id, fun _ => rfl, nofun, fun _ _ => rfl, rfl⟩⟩
    simp [primeBand, phyGetLo_fails, State.nextStatus_eq_getElem, h.status, h.negative]
  | succ j =>
    have hj : j < 3 := by omega
    have hsel : (s.after [.phyGetLo c.dir]).FailsAt j q := h.of_drop rfl
    refine ⟨_, ?_, selectionStop_primingStopped hj⟩
    have hstop := bandStop_of_disabled (s := s.after [.phyGetLo c.dir]) (k := j) hc hoff
    simpa [primeBand, phyGetLo_succeeds, State.nextStatus_eq_getElem, h.goes,
      selectBand_stops hsel hj] using hstop _

end Priming

/-! The whole of `INIT`. -/

section Init

variable {s t : State} {k : Nat} {q : Int}

/-- `INIT` before the priming: the register is written and the front end constructed. -/
def initStart (s : State) : State :=
  constructFrontEnd ((s.after [.rffeWrite s.cfg.rffeInit]).withRffe s.cfg.rffeInit)

/-- The RFFE register after the priming of the receive direction. -/
def rxRffe (c : Cfg) : Rffe :=
  c.withAntenna .rx .shutdown c.rffeInit

/-- `INIT` after the priming of the receive direction. -/
def rxPrimed (s : State) : State :=
  (((initStart s).after (primeCalls s.cfg .rx1 s.cfg.rffeInit)).withPort .rx 0).withRffe (rxRffe s.cfg)

theorem initCalls_eq (c : Cfg) :
    initCalls c = .rffeWrite c.rffeInit
      :: (primeCalls c .rx1 c.rffeInit ++ primeCalls c .tx1 (rxRffe c)) :=
  rfl

@[simp] theorem initStart_cfg : (initStart s).cfg = s.cfg := by simp [initStart]
@[simp] theorem initStart_rffe : (initStart s).rffe = s.cfg.rffeInit := by simp [initStart]
@[simp] theorem initStart_replies : (initStart s).replies = s.replies.drop 1 := by simp [initStart]

@[simp] theorem rxPrimed_cfg : (rxPrimed s).cfg = s.cfg := by simp [rxPrimed]
@[simp] theorem rxPrimed_rffe : (rxPrimed s).rffe = rxRffe s.cfg := by simp [rxPrimed]
@[simp] theorem rxPrimed_port_rx : (rxPrimed s).port.get .rx = 0 := by simp [rxPrimed]

theorem initStart_enabled (hc : s.cfg.legal = true) (d : Dir) : (initStart s).enabled d = false := by
  simpa [State.enabled] using (Cfg.legal_rffeInit hc).2 d

theorem rxPrimed_enabled (hc : s.cfg.legal = true) (d : Dir) : (rxPrimed s).enabled d = false := by
  simpa [State.enabled, rxPrimed, rxRffe, Cfg.enabledIn_withAntenna _ _ hc] using
    (Cfg.legal_rffeInit hc).2 d

theorem execInit_stops_first (hmin : BoardState.fpgaLoaded.code ≤ s.bstate.code)
    (h : s.FailsAt 0 q) :
    execInit s = .next ((s.after [.rffeWrite s.cfg.rffeInit]).freeRffe.fail (s.cfg.translate q)) := by
  simp [execInit, gate_passes hmin, rffeWrite_fails, State.nextStatus_eq_getElem, h.status, h.negative]

theorem execInit_stops_rx (hc : s.cfg.legal = true)
    (hmin : BoardState.fpgaLoaded.code ≤ s.bstate.code) (h : s.FailsAt (k + 1) q) (hk : k < 4) :
    ∃ t, execInit s = .next (t.fail (s.cfg.translate q)) ∧ PrimingStopped k .rx1 (initStart s) t := by
  obtain ⟨t, ht, hstop⟩ := primeBand_stops (s := initStart s) (c := .rx1) (by simpa using hc)
    (initStart_enabled hc _) (h.of_drop (by simp)) hk
  rw [initStart] at ht
  refine ⟨t, ?_, hstop⟩
  simp [execInit, gate_passes hmin, rffeWrite_succeeds, State.nextStatus_eq_getElem, h.goes, ht]

theorem execInit_stops_tx (hc : s.cfg.legal = true)
    (hmin : BoardState.fpgaLoaded.code ≤ s.bstate.code) (h : s.FailsAt (k + 5) q) (hk : k < 4) :
    ∃ t, execInit s = .next (t.fail (s.cfg.translate q)) ∧ PrimingStopped k .tx1 (rxPrimed s) t := by
  obtain ⟨t, ht, hstop⟩ := primeBand_stops (s := rxPrimed s) (c := .tx1) (by simpa using hc)
    (rxPrimed_enabled hc _) (h.of_drop (by simp [rxPrimed, primeCalls])) hk
  refine ⟨t, ?_, hstop⟩
  have hrx : primeBand .rx1 (initStart s) = .done () (rxPrimed s) := by
    have hcalls : (initStart s).nextCallsSucceed 4 :=
      State.nextCallsSucceed_of_drop h.before initStart_replies (by omega)
    rw [primeBand_succeeds (by simpa using hc) (initStart_enabled hc _) hcalls]
    simp [rxPrimed, primeCalls, rxRffe, Chan.dir]
  rw [initStart] at hrx
  simp [execInit, gate_passes hmin, rffeWrite_succeeds, State.nextStatus_eq_getElem, h.goes, hrx, ht]

/-- `u` with the fields a failing `INIT` may leave changed as they are in `s`. -/
def State.initFrame (s u : State) : State :=
  { u with
      rffe := s.rffe, port := s.port, loFreq := s.loFreq, fe := s.fe
      response := s.response, freeCount := s.freeCount }

theorem PrimingStopped.initFrame_fail {c : Chan} {v : State} (h : PrimingStopped k c v t) (s : State)
    (e : Err) :
    s.initFrame (t.fail e) = s.initFrame (v.after ((primeCalls v.cfg c v.rffe).take (k + 1))) :=
  have heq := congrArg s.initFrame h.frame
  heq

theorem initStart_initFrame (cs : List Call) :
    s.initFrame ((initStart s).after cs) = s.after (.rffeWrite s.cfg.rffeInit :: cs) := by
  apply State.ext <;> simp [State.initFrame, initStart]

theorem rxPrimed_initFrame (cs : List Call) :
    s.initFrame ((rxPrimed s).after cs)
      = s.after (.rffeWrite s.cfg.rffeInit :: (primeCalls s.cfg .rx1 s.cfg.rffeInit ++ cs)) := by
  rw [← initStart_initFrame, ← State.after_after]
  rfl

theorem initCalls_take_rx (c : Cfg) (hk : k < 4) : (initCalls c).take (k + 2)
    = .rffeWrite c.rffeInit :: (primeCalls c .rx1 c.rffeInit).take (k + 1) := by
  rw [initCalls_eq, List.take_succ_cons, List.take_append_of_le_length]
  exact hk

theorem initCalls_take_tx (c : Cfg) (k : Nat) : (initCalls c).take (k + 6)
    = .rffeWrite c.rffeInit
      :: (primeCalls c .rx1 c.rffeInit ++ (primeCalls c .tx1 (rxRffe c)).take (k + 1)) := by
  have hlen : k + 5 = (primeCalls c .rx1 c.rffeInit).length + (k + 1) := by
    rw [primeCalls]
    simp only [List.length_cons, List.length_nil]
    omega
  rw [initCalls_eq, List.take_succ_cons, hlen, List.take_length_add_append]

theorem PrimingStopped.initFrame_rx (h : PrimingStopped k .rx1 (initStart s) t) (hk : k < 4)
    (e : Err) : s.initFrame (t.fail e) = s.after ((initCalls s.cfg).take (k + 2)) := by
  rw [h.initFrame_fail, initStart_initFrame, initStart_cfg, initStart_rffe, initCalls_take_rx _ hk]

theorem PrimingStopped.initFrame_tx (h : PrimingStopped k .tx1 (rxPrimed s) t) (e : Err) :
    s.initFrame (t.fail e) = s.after ((initCalls s.cfg).take (k + 6)) := by
  rw [h.initFrame_fail, rxPrimed_initFrame, rxPrimed_cfg, rxPrimed_rffe, initCalls_take_tx]

/-- `v` is a state of the `INIT` that began in `s`, from the construction of the front end on. -/
structure Constructed (s v : State) : Prop where
  cfg : v.cfg = s.cfg
  fe : ∀ a, a < 2 ^ s.cfg.feAddrBits → feGet v.fe a = Config.freeByte s.freeCount a
  loFreq : v.loFreq = s.cfg.loDefault
  rffe_lt : v.rffe < 2 ^ s.cfg.rffeBits

theorem initStart_constructed (hc : s.cfg.legal = true) : Constructed s (initStart s) where
  cfg := initStart_cfg
  fe a ha := by
    simpa [initStart, constructFrontEnd_fe] using feGet_feRefresh_free s.freeCount s.fe ha rfl
  loFreq := by simp [initStart]
  rffe_lt := initStart_rffe ▸ (Cfg.legal_rffeInit hc).1

theorem rxPrimed_constructed (hc : s.cfg.legal = true) : Constructed s (rxPrimed s) :=
  have h := initStart_constructed hc
  ⟨h.cfg, h.fe, h.loFreq, Cfg.withAntenna_lt hc _ _ (Cfg.legal_rffeInit hc).1⟩

theorem PrimingStopped.constructed {c : Chan} {v : State} (h : PrimingStopped k c v t)
    (hv : Constructed s v) : Constructed s t where
  cfg := h.cfg.trans hv.cfg
  fe := h.fe ▸ hv.fe
  loFreq := h.loFreq.trans hv.loFreq
  rffe_lt := hv.cfg ▸ h.rffe_lt (hv.cfg.symm ▸ hv.rffe_lt)

end Init

/-- Settles O59: the failing call is the first write, or one of the four of either priming. -/
theorem initFailureWindow : Obligations.InitFailureWindow := by
  intro s k q hc hmin hk hok hstatus hq
  have hf : s.FailsAt k q := ⟨hok, hstatus, hq⟩
  cases k with
  | zero =>
    exact ⟨_, execInit_stops_first hmin hf, rfl, fun _ => ⟨rfl, rfl, rfl⟩, nofun,
      Nat.mod_lt _ (Nat.two_pow_pos _), nofun, nofun, nofun, nofun, rfl⟩
  | succ j =>
    rcases Nat.lt_or_ge j 4 with hrx | htx
    · obtain ⟨t, hexec, hstop⟩ := execInit_stops_rx hc hmin hf hrx
      have ht := hstop.constructed (initStart_constructed hc)
      exact ⟨_, hexec, by rw [State.fail_response, ht.cfg], nofun, fun _ => ⟨ht.loFreq, ht.fe⟩,
        ht.rffe_lt, fun _ h3 => (hstop.rffe (by omega)).trans initStart_rffe, by omega,
        fun h4 => hstop.port (by omega), by omega, hstop.initFrame_rx hrx _⟩
    · obtain ⟨i, rfl⟩ := Nat.exists_eq_add_of_le' htx
      obtain ⟨t, hexec, hstop⟩ := execInit_stops_tx hc hmin hf (by omega)
      have ht := hstop.constructed (rxPrimed_constructed hc)
      exact ⟨_, hexec, by rw [State.fail_response, ht.cfg], nofun, fun _ => ⟨ht.loFreq, ht.fe⟩,
        ht.rffe_lt, by omega, fun _ h7 => (hstop.rffe (by omega)).trans rxPrimed_rffe,
        fun _ => (hstop.port_ne .rx nofun).trans rxPrimed_port_rx,
        fun h8 => hstop.port (by omega), hstop.initFrame_tx _⟩

end Machine

end Sys2Proof
end

-- What SET_CORRECTION leaves where one of its register writes fails.
section
/-!
SUPPORT and PROOFS. The encoders as arithmetic, `SET_CORRECTION` past its checks, storing a value in one
register or in a pair, setting the force bit, and the statement `SetCorrectionWriteFails`.
-/

namespace Sys2Proof

namespace Machine

/-! The encoders as arithmetic (42_calibration rules R165 and R171). -/

theorem setWidth_sshiftRight {w n : Nat} (v : BitVec w) (m : Nat) (h : n ≤ w) :
    (v.sshiftRight m).setWidth n = BitVec.ofInt n (v.toInt / 2 ^ m) := by
  apply BitVec.eq_of_toInt_eq
  calc ((v.sshiftRight m).setWidth n).toInt
      = ((v.sshiftRight m).toInt).bmod (2 ^ n) := by
        rw [BitVec.toInt_setWidth, BitVec.toInt_eq_toNat_bmod,
          Int.bmod_bmod_of_dvd (Nat.pow_dvd_pow 2 h)]
    _ = (BitVec.ofInt n (v.toInt / 2 ^ m)).toInt := by
        rw [BitVec.toInt_sshiftRight, Int.shiftRight_eq_div_pow, BitVec.toInt_ofInt]
        norm_cast

theorem encode8_eq (v : BitVec 16) (n : Nat) : encode8 v n = BitVec.ofInt 8 (v.toInt / 2 ^ n) :=
  setWidth_sshiftRight v n (by decide)

theorem encodeRxDc_eq (v : BitVec 16) : encodeRxDc v = BitVec.ofInt 10 (v.toInt / 8) :=
  setWidth_sshiftRight v 3 (by decide)

section SetCorrection

variable {s u : State} {ch kd : BitVec 8} {v : BitVec 16} {c : Chan} {k : Kind} {b : CorrBand}
  {q : Int} {m : Nat} {e : PairEntry}

theorem corrBandNow_succeeds {d : Dir} (hband : s.cfg.corrBandOfPort d (s.port.get d) = some b)
    (h : 0 ≤ s.nextStatus) : corrBandNow d s = .done b (s.after [.phyGetPort d]) := by
  simp [corrBandNow, phyGetPort_succeeds h, hband]

section Body

variable {slot : Slot} {err : Err} {w : State} (hb : s.bstate = .initialized)
  (hch : Chan.ofCode ch = some c) (hkd : Kind.ofCode kd = some k)
  (hband : s.cfg.corrBandOfPort c.dir (s.port.get c.dir) = some b)
  (hcalls : s.nextCallsSucceed (m + 1)) (hslot : s.cfg.slot c k = slot)

include hb hch hkd hband hcalls hslot

/-- `SET_CORRECTION` past its checks and the port query: the value is stored, then the force bit is set
(42_calibration rule R179). -/
theorem execSetCorrection_eq : exec (.setCorrection ch kd v) s
    = answer ((writeCorr slot b v (s.after [.phyGetPort c.dir])).bind fun _ u =>
        (forceSet c k b u).bind fun _ w => .done 0 w) := by
  have hmin : BoardState.initialized.code ≤ s.bstate.code := hb ▸ le_rfl
  have hport := State.nextStatus_nonneg hcalls m.succ_pos
  simp [exec, execSetCorrection, gate_passes hmin, withChan_passes hch, withKind_passes hkd,
    corrBandNow_succeeds hband hport, hslot]

/-- It stops while it stores the value. -/
theorem execSetCorrection_stops_in_value
    (hvalue : writeCorr slot b v (s.after [.phyGetPort c.dir]) = .raised err u) :
    exec (.setCorrection ch kd v) s = .next (u.fail err) := by
  rw [execSetCorrection_eq hb hch hkd hband hcalls hslot, hvalue, Res.bind_raised, answer_raised]

/-- It stops while it sets the force bit, the value stored. -/
theorem execSetCorrection_stops_in_force
    (hvalue : writeCorr slot b v (s.after [.phyGetPort c.dir]) = .done () w)
    (hforce : forceSet c k b w = .raised err u) :
    exec (.setCorrection ch kd v) s = .next (u.fail err) := by
  rw [execSetCorrection_eq hb hch hkd hband hcalls hslot, hvalue, Res.bind_done, hforce,
    Res.bind_raised, answer_raised]

end Body

/-! Storing the value in one register. -/

theorem writeCorr_single_stops {e : SingleEntry} (ha : s.cfg.feHas (e.reg.get b) = true)
    (h : s.FailsAt 0 q) :
    writeCorr (.single e) b v s = .raised (s.cfg.translate q)
      ((s.after [.spiWrite (e.reg.get b) (encode8 v e.shift)]).freeFe (e.reg.get b)) := by
  simp [writeCorr, spiWrite_fails, ha, State.nextStatus_eq_getElem, h.status, h.negative]

theorem writeCorr_single_succeeds {e : SingleEntry} (ha : s.cfg.feHas (e.reg.get b) = true)
    (h : s.nextCallsSucceed 1) :
    writeCorr (.single e) b v s = .done ()
      ((s.after [.spiWrite (e.reg.get b) (encode8 v e.shift)]).setFe (e.reg.get b)
        (encode8 v e.shift)) :=
  spiWrite_succeeds ha (State.nextStatus_nonneg h Nat.one_pos)

/-! Storing the value in a pair: both registers are read, then written, the top one first. -/

section Pair

/-- The byte the value leaves in the top register of a pair (42_calibration rule R172). -/
def topByte (e : PairEntry) (b : CorrBand) (v : BitVec 16) (s : State) : Byte :=
  packTop e.layout (s.feAt (e.reg.get b).top) (encodeRxDc v)

/-- The byte it leaves in the bottom register. -/
def botByte (e : PairEntry) (b : CorrBand) (v : BitVec 16) (s : State) : Byte :=
  packBot e.layout (s.feAt (e.reg.get b).bot) (encodeRxDc v)

/-- The four calls made, with the effect of all but the last. -/
def topStored (e : PairEntry) (b : CorrBand) (v : BitVec 16) (s : State) : State :=
  (s.after [.spiRead (e.reg.get b).top, .spiRead (e.reg.get b).bot,
    .spiWrite (e.reg.get b).top (topByte e b v s),
    .spiWrite (e.reg.get b).bot (botByte e b v s)]).setFe (e.reg.get b).top (topByte e b v s)

variable (htop : s.cfg.feHas (e.reg.get b).top = true) (hbot : s.cfg.feHas (e.reg.get b).bot = true)

include htop hbot

theorem writeCorr_pair_stops_top (h : s.FailsAt 2 q) :
    writeCorr (.pair e) b v s = .raised (s.cfg.translate q)
      ((s.after [.spiRead (e.reg.get b).top, .spiRead (e.reg.get b).bot,
        .spiWrite (e.reg.get b).top (topByte e b v s)]).freeFe (e.reg.get b).top) := by
  simp [writeCorr, topByte, spiRead_succeeds, spiWrite_fails, htop, hbot, State.nextStatus_eq_getElem,
    h.goes, h.status, h.negative]

theorem writeCorr_pair_stops_bot (h : s.FailsAt 3 q) :
    writeCorr (.pair e) b v s = .raised (s.cfg.translate q)
      ((topStored e b v s).freeFe (e.reg.get b).bot) := by
  simp [writeCorr, topStored, topByte, botByte, spiRead_succeeds, spiWrite_succeeds, spiWrite_fails,
    htop, hbot, State.nextStatus_eq_getElem, h.goes, h.status, h.negative]

theorem writeCorr_pair_succeeds (h : s.nextCallsSucceed 4) :
    writeCorr (.pair e) b v s = .done ()
      ((topStored e b v s).setFe (e.reg.get b).bot (botByte e b v s)) := by
  simp [writeCorr, topStored, topByte, botByte, spiRead_succeeds, spiWrite_succeeds, htop, hbot,
    State.nextStatus_eq_getElem, State.reply_nonneg h]

end Pair

/-! Setting the force bit after the value is stored in other registers. -/

theorem State.setFe_feAt_ne {a r : RegAddr} {x : Byte} (h : a ≠ r) :
    (s.setFe a x).feAt r = s.feAt r :=
  feGet_fePut_ne _ _ fun heq => h (BitVec.eq_of_toNat_eq heq.symm)

/-- Setting the force bit of a register that reads `y`, where the write fails. -/
theorem forceSet_stops_write {y : Byte} (hx : s.cfg.feHas (s.cfg.forceReg.get c) = true)
    (hy : s.feAt (s.cfg.forceReg.get c) = y) (h : s.FailsAt 1 q) :
    forceSet c k b s = .raised (s.cfg.translate q)
      ((s.after [.spiRead (s.cfg.forceReg.get c), .spiWrite (s.cfg.forceReg.get c)
        (withForceBit (s.cfg.forceBitOf c k b) y)]).freeFe (s.cfg.forceReg.get c)) := by
  simp [forceSet, spiRead_succeeds, spiWrite_fails, hx, hy, State.nextStatus_eq_getElem, h.goes,
    h.status, h.negative]

/-- Two registers written, then any read. -/
theorem feGet_fePut_fePut {l : List Host.Cell} (hl : feWf l = true) {a r : Nat} (hne : a ≠ r)
    (x y : Byte) (n : Nat) : feGet (fePut (fePut l a x) r y) n =
      if n = a then x else if n = r then y else feGet l n := by
  rw [feGet_fePut (feWf_fePut hl a x), feGet_fePut hl]
  by_cases hn : n = a
  · simp [hn, hne]
  · simp [hn]

/-- A command that ends at a failed write of register `a`, its state before that write being `u`: the
error is answered, `a` is any value, every other register is as in `u` (20_memory rule R56). -/
theorem outcome_of_failed_write {o : Host.Outcome State Fault Refusal} {a : RegAddr} {f : Nat → Byte}
    {calls : List Call} (ho : o = .next ((u.freeFe a).fail (s.cfg.translate q)))
    (hfe : ∀ n, n ≠ a.toNat → feGet u.fe n = f n) (hframe : { u with fe := s.fe } = s.after calls) :
    ∃ t, o = .next t ∧ t.response = some ⟨s.cfg.errCode (s.cfg.translate q), 0⟩
      ∧ (∀ n, n ≠ a.toNat → feGet t.fe n = f n)
      ∧ { t with fe := s.fe, freeCount := s.freeCount, response := s.response } = s.after calls := by
  have hcfg := congrArg State.cfg hframe
  have hrest := congrArg
    (fun w : State => { w with freeCount := s.freeCount, response := s.response }) hframe
  refine ⟨_, ho, ?_, fun n hn => (feGet_fePut_ne _ _ hn).trans (hfe n hn), hrest⟩
  rw [State.fail_response, State.freeFe_cfg, show u.cfg = s.cfg from hcfg]

end SetCorrection

/-- Settles O60: each clause is a value or a force bit whose writing stops, the calls before it made. -/
theorem setCorrectionWriteFails : Obligations.SetCorrectionWriteFails := by
  intro s ch kd v c k b q hs hb hch hkd hapart hband hq
  simp only [← encode8_eq, ← encodeRxDc_eq]
  have hslot := Cfg.legal_slotLegal hs.cfgLegal c k
  have hforce := Cfg.legal_forceReg hs.cfgLegal c
  refine ⟨fun e he => ?_, fun e he => ?_⟩
  · have ha := (Cfg.slotLegal_single (he ▸ hslot)).1 b
    have hne := Cfg.slotApart_single hapart he c
    refine ⟨fun hok h => ?_, fun hok h => ?_⟩
    · have hf : s.FailsAt 1 q := ⟨hok, h, hq⟩
      refine outcome_of_failed_write (execSetCorrection_stops_in_value hb hch hkd hband hok he
        (writeCorr_single_stops ha (hf.of_drop (m := 1) rfl))) (fun _ _ => rfl) ?_
      apply State.ext <;> simp
    · have hf : s.FailsAt 3 q := ⟨hok, h, hq⟩
      refine outcome_of_failed_write (execSetCorrection_stops_in_force hb hch hkd hband hok he
        (writeCorr_single_succeeds ha (State.nextCallsSucceed_of_drop (k := 1) hok rfl (by decide)))
        (forceSet_stops_write (y := s.feAt (s.cfg.forceReg.get c)) hforce (State.setFe_feAt_ne hne)
          (hf.of_drop (m := 2) (by simp)))) (fun _ _ => feGet_fePut hs.feCanonical _ _ _) ?_
      apply State.ext <;> simp [withForceBit]
  · obtain ⟨htop, hbot⟩ := (Cfg.slotLegal_pair (he ▸ hslot)).1 b
    obtain ⟨hnetop, hnebot, hne⟩ := Cfg.slotApart_pair hapart he c
    refine ⟨fun hok h => ?_, fun hok h => ?_, fun hok h => ?_⟩
    · have hf : s.FailsAt 3 q := ⟨hok, h, hq⟩
      refine outcome_of_failed_write (execSetCorrection_stops_in_value hb hch hkd hband hok he
        (writeCorr_pair_stops_top htop hbot (hf.of_drop (m := 1) rfl))) (fun _ _ => rfl) ?_
      apply State.ext <;> simp [topByte]
    · have hf : s.FailsAt 4 q := ⟨hok, h, hq⟩
      refine outcome_of_failed_write (execSetCorrection_stops_in_value hb hch hkd hband hok he
        (writeCorr_pair_stops_bot htop hbot (hf.of_drop (m := 1) rfl)))
        (fun _ _ => feGet_fePut hs.feCanonical _ _ _) ?_
      apply State.ext <;> simp [topStored, topByte, botByte]
    · have hf : s.FailsAt 6 q := ⟨hok, h, hq⟩
      refine outcome_of_failed_write (execSetCorrection_stops_in_force hb hch hkd hband hok he
        (writeCorr_pair_succeeds htop hbot
          (State.nextCallsSucceed_of_drop (k := 1) hok rfl (by decide)))
        (forceSet_stops_write (y := s.feAt (s.cfg.forceReg.get c)) hforce
          ((State.setFe_feAt_ne hnebot).trans (State.setFe_feAt_ne hnetop))
          (hf.of_drop (m := 5) (by simp [topStored]))))
        (fun _ _ => feGet_fePut_fePut hs.feCanonical ?_ _ _ _) ?_
      · exact fun heq => hne (BitVec.eq_of_toNat_eq heq)
      · apply State.ext <;> simp [withForceBit, topStored, topByte, botByte]

end Machine

end Sys2Proof
end

-- Decoding as reading the operands of a command from a word's fields.
section
/-!
SUPPORT and PROOFS. A word decodes to the command of its opcode with its operands read from the word's
fields (`Instr.readFrom`), said once, and the statements that follow: `DecodeOfEncode`,
`DecodeIgnoresUnusedFields`, `OnlyMappedOpcodesDecode`, `SampleWordsDecode`.
-/

namespace Sys2Proof

/-- The command with its operands read again from the fields of a word (30_encoding rules R81 and
R84). -/
def Instr.readFrom (c : Command) : Instr → Instr
  | .fwDetected => .fwDetected
  | .fpgaLoaded => .fpgaLoaded
  | .init => .init
  | .close => .close
  | .selectBand _ _ => .selectBand c.ch c.freq
  | .setFrequency _ _ => .setFrequency c.ch c.freq
  | .setRfPort _ _ => .setRfPort c.ch c.portid
  | .getRfPort _ => .getRfPort c.ch
  | .getCorrection _ _ => .getCorrection c.ch c.kind
  | .setCorrection _ _ _ => .setCorrection c.ch c.kind c.value
  | .enableModule _ => .enableModule c.ch
  | .disableModule _ => .disableModule c.ch
  | .syncConfig _ => .syncConfig c.ch
  | .regRead _ => .regRead c.addr
  | .regWrite _ _ => .regWrite c.addr c.data

/-! Decoding. -/

/-- `op` alone selects the command, the other fields give its operands (30_encoding rules R83 b and
R84). -/
theorem decode_of_op {c : Command} {i : Instr} (h : c.op = Laws.OpByte.opcode i) :
    decode c = .ok (i.readFrom c) := by
  cases i <;> rw [decode, h] <;> rfl

theorem decode_eq_ok_iff {c : Command} {i : Instr} :
    decode c = .ok i ↔ c.op = Laws.OpByte.opcode i ∧ i.readFrom c = i := by
  constructor
  · intro h
    have hop := op_of_decode_ok h
    exact ⟨hop, Except.ok.inj ((decode_of_op hop).symm.trans h)⟩
  · rintro ⟨hop, hread⟩
    rw [decode_of_op hop, hread]

/-- The opcode map lists one opcode for each of the fifteen commands. -/
theorem opcodes_eq_map : opcodes = List.map Laws.OpByte.opcode
    [.fwDetected, .fpgaLoaded, .init, .close, .selectBand 0 0, .setFrequency 0 0, .setRfPort 0 0,
      .getRfPort 0, .getCorrection 0 0, .setCorrection 0 0 0, .enableModule 0, .disableModule 0,
      .syncConfig 0, .regRead 0, .regWrite 0 0] := rfl

theorem exists_opcode_of_mem {op : BitVec 8} (h : op ∈ opcodes) :
    ∃ i, op = Laws.OpByte.opcode i := by
  rw [opcodes_eq_map] at h
  obtain ⟨i, -, hi⟩ := List.mem_map.1 h
  exact ⟨i, hi.symm⟩

/-! The fields of an encoded command. -/

theorem op_encode (i : Instr) : (encode i).op = Laws.OpByte.opcode i := by
  cases i <;> exact Laws.OpByte.op_assembleCw _ _ _ _

@[simp] theorem ch_assembleCw (op ch kind : BitVec 8) (a : BitVec 64) :
    (Command.mk (assembleCw op ch kind) a).ch = ch := by
  calc (op ++ ch ++ kind ++ 0#8).extractLsb' 16 8
      = (op ++ ch ++ kind).extractLsb' 8 8 := BitVec.extractLsb'_append_eq_of_le (by decide)
    _ = (op ++ ch).extractLsb' 0 8 := BitVec.extractLsb'_append_eq_of_le (by decide)
    _ = ch := BitVec.extractLsb'_append_eq_right

@[simp] theorem kind_assembleCw (op ch kind : BitVec 8) (a : BitVec 64) :
    (Command.mk (assembleCw op ch kind) a).kind = kind := by
  calc (op ++ ch ++ kind ++ 0#8).extractLsb' 8 8
      = (op ++ ch ++ kind).extractLsb' 0 8 := BitVec.extractLsb'_append_eq_of_le (by decide)
    _ = kind := BitVec.extractLsb'_append_eq_right

@[simp] theorem portid_mk_setWidth (cw : BitVec 32) (p : PortId) :
    (Command.mk cw (p.setWidth 64)).portid = p := by
  simp [Command.portid, BitVec.extractLsb'_setWidth_of_le]

@[simp] theorem value_mk_setWidth (cw : BitVec 32) (v : BitVec 16) :
    (Command.mk cw (v.setWidth 64)).value = v := by
  simp [Command.value, BitVec.extractLsb'_setWidth_of_le]

/-- Encoding puts every operand in the field the decoder reads it from. -/
theorem readFrom_encode (i : Instr) : i.readFrom (encode i) = i := by
  cases i with
  | regRead a => simp [Instr.readFrom, addr_encode_regRead]
  | regWrite a v => simp [Instr.readFrom, addr_encode_regWrite, data_encode_regWrite]
  | _ => simp [Instr.readFrom, encode, Command.freq]

/-! Words that agree on the fields a command uses. -/

/-- A field of `ARG` is read from the bits up to its end. -/
theorem extractLsb'_eq_of_low_bits {w n start len : Nat} {x y : BitVec w}
    (h : ∀ k, k < n → x.getLsbD k = y.getLsbD k) (hlen : start + len ≤ n) :
    x.extractLsb' start len = y.extractLsb' start len := by
  apply BitVec.eq_of_getLsbD_eq
  intro k hk
  simp only [BitVec.getLsbD_extractLsb', h (start + k) (by omega)]

theorem readFrom_eq_of_used_fields {c c' : Command} {i : Instr}
    (hch : i.usesChan = true → c'.ch = c.ch) (hkind : i.usesKind = true → c'.kind = c.kind)
    (harg : ∀ n, n < i.argBits → c'.arg.getLsbD n = c.arg.getLsbD n) :
    i.readFrom c' = i.readFrom c := by
  cases i with
  | fwDetected | fpgaLoaded | init | close => rfl
  | getRfPort | enableModule | disableModule | syncConfig => simp [Instr.readFrom, hch rfl]
  | getCorrection => simp [Instr.readFrom, hch rfl, hkind rfl]
  | selectBand | setFrequency =>
    have hfreq : c'.freq = c.freq := BitVec.eq_of_getLsbD_eq harg
    simp [Instr.readFrom, hch rfl, hfreq]
  | setRfPort =>
    have hport : c'.portid = c.portid := extractLsb'_eq_of_low_bits harg (Nat.le_refl _)
    simp [Instr.readFrom, hch rfl, hport]
  | setCorrection =>
    have hvalue : c'.value = c.value := extractLsb'_eq_of_low_bits harg (Nat.le_refl _)
    simp [Instr.readFrom, hch rfl, hkind rfl, hvalue]
  | regRead =>
    have haddr : c'.addr = c.addr := extractLsb'_eq_of_low_bits harg (Nat.le_refl _)
    simp [Instr.readFrom, haddr]
  | regWrite =>
    have haddr : c'.addr = c.addr :=
      extractLsb'_eq_of_low_bits harg (show 0 + 16 ≤ 24 by decide)
    have hdata : c'.data = c.data := extractLsb'_eq_of_low_bits harg (Nat.le_refl _)
    simp [Instr.readFrom, haddr, hdata]

/-! The obligations. -/

/-- Settles O1: the encoded word carries the command's opcode, and its fields the operands. -/
theorem decodeOfEncode : Obligations.DecodeOfEncode :=
  fun i => decode_eq_ok_iff.2 ⟨op_encode i, readFrom_encode i⟩

theorem decode_of_encode_eq {c : Command} {i : Instr} (h : encode i = c) : decode c = .ok i :=
  h ▸ decodeOfEncode i

/-- Settles O2: the other word has the same opcode, and the same operands are read from it. -/
theorem decodeIgnoresUnusedFields : Obligations.DecodeIgnoresUnusedFields := by
  intro c c' i hdec hop hch hkind harg
  obtain ⟨hopcode, hread⟩ := decode_eq_ok_iff.1 hdec
  exact decode_eq_ok_iff.2
    ⟨hop.trans hopcode, (readFrom_eq_of_used_fields hch hkind harg).trans hread⟩

/-- Settles O3: a word that decodes carries the opcode of its command, and each of the fifteen is the
opcode of one. -/
theorem onlyMappedOpcodesDecode : Obligations.OnlyMappedOpcodesDecode := by
  intro c
  constructor
  · rintro ⟨i, hdec⟩
    exact op_of_decode_ok hdec ▸ opcode_mem_opcodes i
  · intro hmem
    obtain ⟨i, hop⟩ := exists_opcode_of_mem hmem
    exact ⟨_, decode_of_op hop⟩

/-- Settles O4: each word is the encoding of the command it stands for. -/
theorem sampleWordsDecode : Obligations.SampleWordsDecode :=
  ⟨decode_of_encode_eq (by decide), decode_of_encode_eq (by decide),
    decode_of_encode_eq (by decide), decode_of_encode_eq (by decide),
    decode_of_encode_eq (by decide)⟩

end Sys2Proof
end

-- Bring-up: what the two load reports and CLOSE do, and a failing INIT.
section
/-!
SUPPORT and PROOFS. The board state after a forward move, what an `INIT` that raises an error has
written, and the statements `FailedInitKeepsBoardState`, `FwDetectedResult`, `FpgaLoadedResult`,
`CloseResult`.
-/

namespace Sys2Proof

theorem BoardState.code_lt_firmwareLoaded_iff {b : BoardState} :
    b.code < BoardState.firmwareLoaded.code ↔ b = .uninitialized := by
  cases b <;> decide

theorem BoardState.code_lt_fpgaLoaded_iff {b : BoardState} :
    b.code < BoardState.fpgaLoaded.code ↔ b = .uninitialized ∨ b = .firmwareLoaded := by
  cases b <;> decide

namespace Machine

section FailedInit

variable {α β : Type} {s t : State} {e : Err}

theorem gate_eq_raised {min : BoardState} {k : State → Res α} (h : gate min s k = .raised e t) :
    t = s ∨ k s = .raised e t := by
  unfold gate at h
  split at h
  · cases h
    exact .inl rfl
  · exact .inr h

/-- An error is raised where `P` holds if the first part ends where `P` holds, done or raised, and the
rest, begun there, raises only where `P` holds. -/
theorem Res.of_bind_eq_raised {P : State → Prop} {r : Res α} {k : α → State → Res β}
    (h : r.bind k = .raised e t) (hr : r.leaves P)
    (hk : ∀ a u, P u → k a u = .raised e t → P t) : P t := by
  rcases Res.bind_eq_raised h with rfl | ⟨a, u, rfl, hrest⟩
  · exact hr
  · exact hk a u hr hrest

/-- An `INIT` that raises an error has not come to its last step, the only one that writes the board
state (40_bringup rules R114 and R115). -/
theorem execInit_failed_sameBut (h : execInit s = .next t) (ht : ¬ t.succeeded) :
    SameBut (.rffe :: frontEndFields) s t := by
  rcases answer_eq_next h with ⟨v, u, -, rfl⟩ | ⟨e, u, hraised, rfl⟩
  · exact absurd ⟨v, u.respond_response 0 v⟩ ht
  · refine SameBut.of_none ?_ (u.respond_sameBut _ _)
    rcases gate_eq_raised hraised with rfl | hbody
    · exact .refl u
    refine Res.of_bind_eq_raised hbody (rffeWrite_sameBut _ (.refl s) (by simp)) fun _ x hx hrx => ?_
    have hfront := hx.step (constructFrontEnd_sameBut x) (by simp)
    refine Res.of_bind_eq_raised hrx (primeBand_sameBut .rx1 hfront (by simp) (by simp [Chan.dir]))
      fun _ y hy htx => ?_
    exact Res.of_bind_eq_raised htx (primeBand_sameBut .tx1 hy (by simp) (by simp [Chan.dir]))
      fun _ _ _ hlast => by cases hlast

end FailedInit

/-- Settles O25: the board state is not among the fields a failing `INIT` may have written. -/
theorem failedInitKeepsBoardState : Obligations.FailedInitKeepsBoardState :=
  fun _ _ h ht => execInit_failed_sameBut h ht .bstate (by simp)

theorem State.advanceTo_eq (s : State) (b : BoardState) :
    s.advanceTo b = s.withBstate (if s.bstate.code < b.code then b else s.bstate) := by
  unfold State.advanceTo
  split <;> rfl

/-- Settles O22: the only board state below `FirmwareLoaded` is `Uninitialized`. -/
theorem fwDetectedResult : Obligations.FwDetectedResult := by
  intro s
  change execFwDetected s = _
  rw [execFwDetected, answer_done, State.advanceTo_eq]
  simp only [BoardState.code_lt_firmwareLoaded_iff]

/-- Settles O23: the command passes its gate, and of the board states left only `FirmwareLoaded` is
below `FpgaLoaded`. -/
theorem fpgaLoadedResult : Obligations.FpgaLoadedResult := by
  intro s hb
  have hmin : BoardState.firmwareLoaded.code ≤ s.bstate.code :=
    not_lt.1 fun hlt => hb (BoardState.code_lt_firmwareLoaded_iff.1 hlt)
  refine ⟨_, execFpgaLoaded_succeeds hmin, ?_, rfl, ?_⟩
  · simp [State.advanceTo_bstate, BoardState.code_lt_fpgaLoaded_iff, hb]
  · apply State.ext <;> simp

/-- Settles O26: every field but the board state and the handles is left free or as it was. -/
theorem closeResult : Obligations.CloseResult := by
  intro s
  refine ⟨_, rfl, rfl, ?handles, rfl, ?frame⟩
  case handles => simp [PerDir.set]
  case frame => apply State.ext <;> simp

end Machine

end Sys2Proof
end

-- Bands and ranges: clamping, the band table, and band selection run twice.
section
/-!
SUPPORT and PROOFS. `Clamp` case by case (41_band_port rule R131), the band table read at a frequency
(rule R132), what a second band selection finds (rule R142), and the statements
`ClampSaturatesAndIsIdempotent`, `BandSelectionProperties`.
-/

namespace Sys2Proof

section Range

variable {r : Range} {v : Int}

theorem Range.contains_iff : r.contains v = true ↔ r.min * r.scale ≤ v ∧ v ≤ r.max * r.scale := by
  simp [Range.contains]

theorem Range.clamp_of_lt_min (h : v < r.min * r.scale) : r.clamp v = r.min * r.scale :=
  if_pos h

theorem Range.clamp_of_max_lt (hr : r.min * r.scale ≤ r.max * r.scale) (h : r.max * r.scale < v) :
    r.clamp v = r.max * r.scale := by
  rw [Range.clamp, if_neg (hr.trans_lt h).not_gt, if_pos h]

theorem Range.clamp_of_contains (h : r.contains v = true) : r.clamp v = v := by
  obtain ⟨hmin, hmax⟩ := Range.contains_iff.1 h
  rw [Range.clamp, if_neg hmin.not_gt, if_neg hmax.not_gt]

theorem Range.contains_clamp (hr : r.min * r.scale ≤ r.max * r.scale) (v : Int) :
    r.contains (r.clamp v) = true := by
  rw [Range.contains_iff]
  rcases lt_or_ge v (r.min * r.scale) with hlow | hlow
  · rw [Range.clamp_of_lt_min hlow]
    exact ⟨le_rfl, hr⟩
  rcases lt_or_ge (r.max * r.scale) v with hhigh | hhigh
  · rw [Range.clamp_of_max_lt hr hhigh]
    exact ⟨hr, le_rfl⟩
  · rw [Range.clamp_of_contains (Range.contains_iff.2 ⟨hlow, hhigh⟩)]
    exact ⟨hlow, hhigh⟩

end Range

/-- Settles O45: the clamped value is in range, so clamping it again leaves it. -/
theorem clampSaturatesAndIsIdempotent : Obligations.ClampSaturatesAndIsIdempotent :=
  fun _ v hr => ⟨Range.clamp_of_lt_min, Range.clamp_of_max_lt hr, Range.clamp_of_contains,
    Range.contains_clamp hr v, Range.clamp_of_contains (Range.contains_clamp hr v)⟩

section Bands

variable {c : Cfg}

theorem Cfg.bandTable_of_standard (h : c.bandTablesStandard = true) (d : Dir) :
    c.bandTable.get d = bandTableOf c.fBoundary c.fBandMax := by
  obtain ⟨hrx, htx⟩ : c.bandTable.rx = bandTableOf c.fBoundary c.fBandMax
      ∧ c.bandTable.tx = bandTableOf c.fBoundary c.fBandMax := by
    simpa [Cfg.bandTablesStandard] using h
  cases d with
  | rx => exact hrx
  | tx => exact htx

/-- The scan of the standard table is a comparison with the boundary and with the top (41_band_port rule
R132). -/
theorem scanBands_bandTableOf (boundary top f : Nat) :
    scanBands (bandTableOf boundary top) (f : Int)
      = if f < boundary then .low else if f ≤ top then .high else .shutdown := by
  have hlow : ((⟨0, (boundary : Int) - 1, 1, 1⟩ : Range).contains (f : Int) = true) ↔ f < boundary := by
    rw [Range.contains_iff]
    dsimp only
    omega
  have hhigh : ((⟨(boundary : Int), (top : Int), 1, 1⟩ : Range).contains (f : Int) = true)
      ↔ boundary ≤ f ∧ f ≤ top := by
    rw [Range.contains_iff]
    dsimp only
    omega
  simp only [bandTableOf, scanBands, hlow, hhigh]
  split
  · rfl
  · next hge => simp only [not_lt.1 hge, true_and]

theorem Cfg.bandOf_of_standard (h : c.bandTablesStandard = true) (d : Dir) (f : Freq) :
    c.bandOf d f = if f.toNat < c.fBoundary then .low else if f.toNat ≤ c.fBandMax then .high
      else .shutdown := by
  rw [Cfg.bandOf, Cfg.bandTable_of_standard h, scanBands_bandTableOf]

@[simp] theorem Cfg.bandFor_true (d : Dir) (f : Freq) : c.bandFor d true f = c.bandOf d f := rfl

@[simp] theorem Cfg.bandFor_false (d : Dir) (f : Freq) : c.bandFor d false f = .shutdown := rfl

theorem Cfg.withAntenna_withAntenna (d : Dir) (b : Band) (r : Rffe) :
    c.withAntenna d b (c.withAntenna d b r) = c.withAntenna d b r := by
  apply Nat.eq_of_testBit_eq
  intro i
  simp only [Cfg.withAntenna, Machine.testBit_setNatField]
  split <;> rfl

end Bands

@[simp] theorem PerDir.set_set {α : Type} (t : PerDir α) (d : Dir) (v w : α) :
    (t.set d v).set d w = t.set d w := by
  cases d <;> rfl

namespace Machine

section SelectTwice

variable {s : State} {c : Chan} {f : Freq}

theorem bandSelected_port : (bandSelected c f s).port
    = s.port.set c.dir (s.cfg.portOf c.dir (s.cfg.bandFor c.dir (s.enabled c.dir) f)) := rfl

theorem bandSelected_rffe : (bandSelected c f s).rffe
    = s.cfg.withAntenna c.dir (s.cfg.bandFor c.dir (s.enabled c.dir) f) s.rffe := rfl

/-- Band selection leaves the enable bits, so a second one takes the same band. -/
theorem bandSelected_enabled (hc : s.cfg.legal = true) (d : Dir) :
    (bandSelected c f s).enabled d = s.enabled d :=
  Cfg.enabledIn_withAntenna _ _ hc

end SelectTwice

/-- Settles O46: the standard table is two comparisons, and the second of two selections takes the band of
the first and writes the same port and code. -/
theorem bandSelectionProperties : Obligations.BandSelectionProperties := by
  refine ⟨fun c d f => Cfg.bandFor_false d f, fun c d f hc => ?_, fun ch f s t u hc ht hu => ?_⟩
  · rw [Cfg.bandFor_true, Cfg.bandOf_of_standard hc]
    refine ⟨fun hlow => if_pos hlow, fun hlow hhigh => ?_, fun hlow hhigh => ?_⟩
    · rw [if_neg hlow.not_gt, if_pos hhigh]
    · rw [if_neg hlow.not_gt, if_neg hhigh.not_ge]
  · obtain rfl := selectBand_eq_done ht
    obtain rfl := selectBand_eq_done hu
    have hband := bandSelected_enabled (c := ch) (f := f) hc ch.dir
    constructor
    · rw [bandSelected_rffe, hband, bandSelected_cfg, bandSelected_rffe, Cfg.withAntenna_withAntenna]
    · rw [bandSelected_port, hband, bandSelected_cfg, bandSelected_port, PerDir.set_set]

end Machine

end Sys2Proof
end

-- The commands on bands and ports: what each does, refuses, and leaves where a call fails.
section
/-!
SUPPORT and PROOFS. Each command on a direction past its gate and channel check, and the statements on
what the band and port commands and `ENABLE_MODULE` do (`SelectBandResult`, `SetFrequencyResult`,
`SetRfPortResult`, `GetRfPortResult`, `EnableModuleResult`), what they refuse
(`RefusedOperandsChangeNothing`, `UnknownPortAnswers`) and where `SET_FREQUENCY` can fail
(`SetFrequencyFailureWindow`).
-/

namespace Sys2Proof

namespace Machine

section Checks

variable {α : Type} {s : State} {ch : BitVec 8} {c : Chan}

theorem State.initialized_code_le (hb : s.bstate = .initialized) :
    BoardState.initialized.code ≤ s.bstate.code :=
  hb ▸ le_rfl

/-- A command on a direction runs its body past the gate and the channel check. -/
theorem chanCommand_passes {min : BoardState} {k : Chan → State → Res α}
    (hmin : min.code ≤ s.bstate.code) (hch : Chan.ofCode ch = some c) :
    gate min s (fun s => withChan ch s k) = k c s := by
  rw [gate_passes hmin, withChan_passes hch]

theorem withRegister_refuses {a : RegAddr} {k : State → Res α}
    (hmin : s.cfg.regMinState.code ≤ s.bstate.code) (ha : 2 ^ s.cfg.feAddrBits ≤ a.toNat) :
    withRegister a s k = .raised .inval s := by
  have hout : s.cfg.feHas a = false := by
    rw [← Bool.not_eq_true, Cfg.feHas_iff]
    exact ha.not_gt
  rw [withRegister, gate_passes hmin, hout, require_false]

theorem corrBandNow_unclassified {d : Dir} (hport : s.cfg.corrBandOfPort d (s.port.get d) = none)
    (h : 0 ≤ s.nextStatus) :
    corrBandNow d s = .raised .unsupported (s.after [.phyGetPort d]) := by
  simp [corrBandNow, phyGetPort_succeeds h, hport]

end Checks

/-- Settles O20: every check before the operand's passes, and the operand's refuses before any call. -/
theorem refusedOperandsChangeNothing : Obligations.RefusedOperandsChangeNothing := by
  intro s
  refine ⟨fun ch c f hb hch hf => ?_, fun ch c p hb hch hp => ?_, fun a v hmin ha => ⟨?_, ?_⟩⟩
  · rw [exec, execSetFrequency, chanCommand_passes (State.initialized_code_le hb) hch, hf,
      require_false, answer_raised]
  · rw [exec, execSetRfPort, chanCommand_passes (State.initialized_code_le hb) hch, hp,
      require_false, answer_raised]
  · rw [exec, execRegRead, withRegister_refuses hmin ha, answer_raised]
  · rw [exec, execRegWrite, withRegister_refuses hmin ha, answer_raised]

/-- Settles O21: the port is asked for, and what it is compared with decides. -/
theorem unknownPortAnswers : Obligations.UnknownPortAnswers := by
  intro s ch c hb hch hcall
  have hmin := State.initialized_code_le hb
  have hok := State.nextStatus_nonneg hcall Nat.one_pos
  refine ⟨fun kd k v hkd hport => ⟨?_, ?_⟩, fun hport => ?_⟩
  · rw [exec, execGetCorrection, chanCommand_passes hmin hch, withKind_passes hkd,
      corrBandNow_unclassified hport hok, Res.bind_raised, answer_raised]
  · rw [exec, execSetCorrection, chanCommand_passes hmin hch, withKind_passes hkd,
      corrBandNow_unclassified hport hok, Res.bind_raised, answer_raised]
  · rw [exec, execGetRfPort, chanCommand_passes hmin hch, phyGetPort_succeeds hok, Res.bind_done,
      State.after_cfg, hport, require_false, answer_raised]

/-- Settles O29: past its checks the command is the one port push. -/
theorem setRfPortResult : Obligations.SetRfPortResult := by
  intro s ch c p hb hch hport hcall
  rw [exec, execSetRfPort, chanCommand_passes (State.initialized_code_le hb) hch, hport, require_true,
    phySetPort_succeeds (State.nextStatus_nonneg hcall Nat.one_pos), Res.bind_done, answer_done]

/-- Settles O30: past its checks the command is the one port read, and the id read is valid. -/
theorem getRfPortResult : Obligations.GetRfPortResult := by
  intro s ch c hb hch hport hcall
  rw [exec, execGetRfPort, chanCommand_passes (State.initialized_code_le hb) hch,
    phyGetPort_succeeds (State.nextStatus_nonneg hcall Nat.one_pos), Res.bind_done, State.after_cfg,
    hport, require_true, answer_done, BitVec.ofNat_toNat]

/-- Settles O27: band selection and nothing else. -/
theorem selectBandResult : Obligations.SelectBandResult := by
  intro s ch c f hmin hch hcalls b r
  rw [exec, execSelectBand, chanCommand_passes hmin hch, selectBand_succeeds f hcalls, Res.bind_done,
    answer_done]
  rfl

section SetFrequency

variable {s : State} {ch : BitVec 8} {c : Chan} {f : Freq}

/-- What `SET_FREQUENCY` hands to band selection (41_band_port rule R138): the frequency is set. -/
def frequencySet (c : Chan) (f : Freq) (s : State) : State :=
  (s.after [.phySetLo c.dir f]).withLo c.dir f

@[simp] theorem frequencySet_cfg : (frequencySet c f s).cfg = s.cfg := rfl
@[simp] theorem frequencySet_rffe : (frequencySet c f s).rffe = s.rffe := rfl
@[simp] theorem frequencySet_freeCount : (frequencySet c f s).freeCount = s.freeCount := rfl
@[simp] theorem frequencySet_enabled (d : Dir) : (frequencySet c f s).enabled d = s.enabled d := rfl
@[simp] theorem frequencySet_after (cs : List Call) :
    (frequencySet c f s).after cs = (s.after (.phySetLo c.dir f :: cs)).withLo c.dir f := by
  simp [frequencySet]

/-- `SET_FREQUENCY` of a frequency in range is the setting of it, then band selection. -/
theorem execSetFrequency_in_range (hb : s.bstate = .initialized) (hch : Chan.ofCode ch = some c)
    (hf : (s.cfg.freqRange.get c.dir).contains (f.toNat : Int) = true) :
    exec (.setFrequency ch f) s = answer ((phySetLo c.dir f s).bind fun _ s =>
      (selectBand c f s).bind fun _ s => .done 0 s) := by
  rw [exec, execSetFrequency, chanCommand_passes (State.initialized_code_le hb) hch, hf, require_true]

/-- The same past its first call. -/
theorem execSetFrequency_frequencySet (hb : s.bstate = .initialized) (hch : Chan.ofCode ch = some c)
    (hf : (s.cfg.freqRange.get c.dir).contains (f.toNat : Int) = true) (hcall : 0 ≤ s.nextStatus) :
    exec (.setFrequency ch f) s
      = answer ((selectBand c f (frequencySet c f s)).bind fun _ s => .done 0 s) := by
  rw [execSetFrequency_in_range hb hch hf, phySetLo_succeeds hcall, Res.bind_done, frequencySet]

/-- `SET_FREQUENCY` where call number `k` of its band selection fails: the new frequency stays
(41_band_port rule R139). -/
theorem execSetFrequency_stops {k : Nat} {q : Int} (hb : s.bstate = .initialized)
    (hch : Chan.ofCode ch = some c)
    (hf : (s.cfg.freqRange.get c.dir).contains (f.toNat : Int) = true) (h : s.FailsAt (k + 1) q)
    (hk : k < 3) : exec (.setFrequency ch f) s
      = .next ((bandStop k c f (frequencySet c f s)).fail (s.cfg.translate q)) := by
  have hstop : (frequencySet c f s).FailsAt k q := h.of_drop rfl
  rw [execSetFrequency_frequencySet hb hch hf (State.nextStatus_nonneg h.before k.succ_pos),
    selectBand_stops hstop hk, Res.bind_raised, answer_raised]
  rfl

end SetFrequency

/-- Settles O28: band selection with the new frequency already set. -/
theorem setFrequencyResult : Obligations.SetFrequencyResult := by
  intro s ch c f hb hch hf hcalls b r
  have hselect : (frequencySet c f s).nextCallsSucceed 3 :=
    State.nextCallsSucceed_of_drop (k := 1) hcalls rfl (by decide)
  rw [execSetFrequency_frequencySet hb hch hf (State.nextStatus_nonneg hcalls (by decide)),
    selectBand_succeeds f hselect, Res.bind_done, answer_done]
  have hband : s.cfg.bandFor c.dir (s.enabled c.dir) f = b := rfl
  simp [bandSelected, hband, r]

/-- Settles O41: the first call's failure ends the command, each later one is `bandStop` with the new
frequency set. -/
theorem setFrequencyFailureWindow : Obligations.SetFrequencyFailureWindow := by
  intro s ch c f q hb hch hf hq b p r
  have hband : s.cfg.bandFor c.dir (s.enabled c.dir) f = b := rfl
  have hstop (k : Nat) (hk : k < 3) (hok : s.nextCallsSucceed (k + 1))
      (h : s.replies[k + 1]? = some q) := execSetFrequency_stops hb hch hf ⟨hok, h, hq⟩ hk
  refine ⟨fun h => ⟨Config.freeFreq s.freeCount c.dir, ?_⟩, fun hok h => ?_,
    fun hok h => ⟨Config.freePort s.freeCount c.dir, ?_⟩,
    fun hok h => ⟨Config.freeRffe s.freeCount % 2 ^ s.cfg.rffeBits, ?_⟩⟩
  · have hstatus : s.nextStatus = q := by simp [State.nextStatus_eq_getElem, h]
    rw [execSetFrequency_in_range hb hch hf, phySetLo_fails (hstatus ▸ hq), hstatus, Res.bind_raised,
      answer_raised]
    rfl
  · rw [hstop 0 (by decide) hok h]
    simp [bandStop, selectionStop]
  · rw [hstop 1 (by decide) hok h]
    simp [bandStop, selectionStop, State.freePort, hband, p]
  · rw [hstop 2 (by decide) hok h]
    simp [bandStop, selectionStop, State.freeRffe, hband, p, r]

/-- Settles O35: the five calls in order, each finding a status that is no failure. -/
theorem enableModuleResult : Obligations.EnableModuleResult := by
  intro s ch c hb hch hcalls b r
  have hok := State.reply_nonneg hcalls
  rw [exec, execEnableModule, chanCommand_passes (State.initialized_code_le hb) hch]
  simp [phyGetLo_succeeds, phySetPort_succeeds, rffeRead_succeeds, rffeWrite_succeeds,
    backendEnable_succeeds, State.nextStatus_eq_getElem, hok, moduleRffe, b, r]

end Machine

end Sys2Proof
end

-- The codec's arithmetic: what decoding, encoding, packing and unpacking do to a value.
section
/-!
SUPPORT and PROOFS. The decoders as products, the round trips of both schemes over the logical range
(42_calibration rules R166 and R174), a packed pair bit by bit (rules R170 and R172), and the statements
`CodecArithmetic`, `SingleRegisterRoundTrip`, `PackUnpackRoundTrip`.
-/

namespace Sys2Proof

/-- The two fields of a legal layout hold ten bits and lie inside their bytes (42_calibration rule
R169). -/
theorem Layout.legal_fits {l : Layout} (h : l.legal = true) :
    l.topN + l.botN = 10 ∧ l.topLo + l.topN ≤ 8 ∧ l.botLo + l.botN ≤ 8 := by
  simp only [Layout.legal, Bool.and_eq_true, decide_eq_true_eq] at h
  omega

namespace Machine

section Arithmetic

/-- The decoders' widening shift appends zeros, which multiplies the signed number. -/
theorem toInt_setWidth_shiftLeft {w : Nat} (hw : 0 < w) (x : BitVec w) (n : Nat) :
    ((x.setWidth (n + w)) <<< n).toInt = x.toInt * 2 ^ n := by
  rw [Nat.add_comm n w]
  have happend : (x.setWidth (w + n)) <<< n = x ++ 0#n := by
    apply BitVec.eq_of_getLsbD_eq
    intro i hi
    rw [BitVec.getLsbD_append]
    by_cases hn : i < n
    · simp [hn]
    · simp [hn, hi]
  rw [happend, BitVec.toInt_append]
  simp [hw.ne', Int.mul_comm]

theorem decode8_eq (x : Byte) (n : Nat) : decode8 x n = x.toInt * 2 ^ n :=
  toInt_setWidth_shiftLeft (by decide) x n

theorem decodeRxDc_eq (x : BitVec 10) : decodeRxDc x = x.toInt * 8 :=
  toInt_setWidth_shiftLeft (by decide) x 3

/-- A quotient cut to `w + 1` bits is the quotient where the dividend is in the range they hold times
the divisor. -/
theorem toInt_ofInt_ediv {w : Nat} {g v : Int} (hg : 0 < g) (hlow : -(2 ^ w * g) ≤ v)
    (hhigh : v < 2 ^ w * g) : (BitVec.ofInt (w + 1) (v / g)).toInt = v / g := by
  apply BitVec.toInt_ofInt_eq_self w.succ_pos
  · rw [Nat.succ_sub_one, Int.le_ediv_iff_mul_le hg, Int.neg_mul]
    exact hlow
  · rw [Nat.succ_sub_one, Int.ediv_lt_iff_lt_mul hg]
    exact hhigh

/-- In the logical range scheme S rounds down to the granularity (42_calibration rule R166). -/
theorem decode8_encode8 {v : BitVec 16} {n : Nat} (hlow : -(2 ^ (n + 7)) ≤ v.toInt)
    (hhigh : v.toInt < 2 ^ (n + 7)) : decode8 (encode8 v n) n = 2 ^ n * (v.toInt / 2 ^ n) := by
  have hpow : (2 : Int) ^ (n + 7) = 2 ^ 7 * 2 ^ n := by rw [pow_add, Int.mul_comm]
  rw [hpow] at hlow hhigh
  rw [decode8_eq, encode8_eq, toInt_ofInt_ediv (by positivity) hlow hhigh, Int.mul_comm]

/-- In the logical range scheme P rounds down to 8 (42_calibration rule R174). -/
theorem decodeRxDc_encodeRxDc {v : BitVec 16} (hlow : -4096 ≤ v.toInt) (hhigh : v.toInt < 4096) :
    decodeRxDc (encodeRxDc v) = 8 * (v.toInt / 8) := by
  rw [decodeRxDc_eq, encodeRxDc_eq, toInt_ofInt_ediv (w := 9) (by decide) hlow hhigh, Int.mul_comm]

/-- A decoded byte fits the operand of `SET_CORRECTION` (42_calibration rule R164). -/
theorem decode8_bounds (x : Byte) {n : Nat} (hn : n ≤ 8) :
    -(2 ^ 15) ≤ decode8 x n ∧ decode8 x n < 2 ^ 15 := by
  have hlow : -128 ≤ x.toInt := x.le_toInt
  have hhigh : x.toInt < 128 := x.toInt_lt
  rw [decode8_eq]
  interval_cases n <;> omega

/-- So does a decoded pair (42_calibration rule R171). -/
theorem decodeRxDc_bounds (x : BitVec 10) : -(2 ^ 15) ≤ decodeRxDc x ∧ decodeRxDc x < 2 ^ 15 := by
  have hlow : -512 ≤ x.toInt := x.le_toInt
  have hhigh : x.toInt < 512 := x.toInt_lt
  rw [decodeRxDc_eq]
  omega

/-- Every byte is the encoding of what it decodes to (42_calibration rule R166). -/
theorem encode8_decode8 (x : Byte) {n : Nat} (hn : n ≤ 8) :
    encode8 (BitVec.ofInt 16 (decode8 x n)) n = x := by
  obtain ⟨hlow, hhigh⟩ := decode8_bounds x hn
  rw [encode8_eq, BitVec.toInt_ofInt_eq_self (by decide) hlow hhigh, decode8_eq,
    Int.mul_ediv_cancel _ (by positivity), BitVec.ofInt_toInt]

end Arithmetic

/-- Settles O48: each decoder is a product, each encoder a floor and a cut. -/
theorem codecArithmetic : Obligations.CodecArithmetic :=
  ⟨decode8_eq, encode8_eq, decodeRxDc_eq, encodeRxDc_eq⟩

/-- Settles O49: rounding down gives the value back exactly where the granularity divides it. -/
theorem singleRegisterRoundTrip : Obligations.SingleRegisterRoundTrip := by
  intro n hn
  refine ⟨fun v hlow hhigh => ?_, fun x => encode8_decode8 x (by omega)⟩
  have hround := decode8_encode8 hlow hhigh
  refine ⟨hround, fun heq => ⟨v.toInt / 2 ^ n, ?_⟩, fun hdvd => ?_⟩
  · rw [← hround, heq]
  · rw [hround, Int.mul_ediv_cancel' hdvd]

section Packing

variable {l : Layout} {t m : Byte} {phys : BitVec 10}

/-- The low bits of an unpacked value are the bottom field, the others the top field (42_calibration
rule R170). -/
theorem getLsbD_unpack (h : l.legal = true) {i : Nat} (hi : i < 10) : (unpack l t m).getLsbD i =
    if i < l.botN then m.getLsbD (l.botLo + i) else t.getLsbD (l.topLo + (i - l.botN)) := by
  obtain ⟨hten, -, -⟩ := Layout.legal_fits h
  simp only [unpack, BitVec.getLsbD_or, BitVec.getLsbD_shiftLeft, BitVec.getLsbD_setWidth,
    getLsbD_getField]
  split
  · next hbot => simp [hi, hbot]
  · next htop => simp [hi, htop, show i - l.botN < 10 by omega, show i - l.botN < l.topN by omega]

/-- A field of a byte written from the low bits of a ten-bit value. -/
theorem getLsbD_setField_setWidth (lo n : Nat) (v : Byte) (f : BitVec 10) (i : Nat) :
    (setField lo n v (f.setWidth 8)).getLsbD i = (decide (i < 8) &&
      if lo ≤ i ∧ i < lo + n then f.getLsbD (i - lo) else v.getLsbD i) := by
  rw [getLsbD_setField]
  by_cases hi : i < 8
  · simp [hi, show i - lo < 8 by omega]
  · simp [hi]

theorem getLsbD_packTop (i : Nat) : (packTop l t phys).getLsbD i = (decide (i < 8) &&
    if l.topLo ≤ i ∧ i < l.topLo + l.topN then phys.getLsbD (l.botN + (i - l.topLo))
    else t.getLsbD i) := by
  rw [packTop, getLsbD_setField_setWidth, BitVec.getLsbD_ushiftRight]

theorem getLsbD_packBot (i : Nat) : (packBot l m phys).getLsbD i = (decide (i < 8) &&
    if l.botLo ≤ i ∧ i < l.botLo + l.botN then phys.getLsbD (i - l.botLo) else m.getLsbD i) :=
  getLsbD_setField_setWidth _ _ _ _ _

/-- Unpacking gives back what was packed (42_calibration rule R172). -/
theorem unpack_pack (h : l.legal = true) :
    unpack l (packTop l t phys) (packBot l m phys) = phys := by
  obtain ⟨hten, htop, hbot⟩ := Layout.legal_fits h
  apply BitVec.eq_of_getLsbD_eq
  intro i hi
  rw [getLsbD_unpack h hi]
  split
  · next hlow =>
    rw [getLsbD_packBot, if_pos (by omega), Nat.add_sub_cancel_left]
    simp [show l.botLo + i < 8 by omega]
  · next hhigh =>
    rw [getLsbD_packTop, if_pos (by omega), Nat.add_sub_cancel_left, Nat.add_sub_cancel' (by omega)]
    simp [show l.topLo + (i - l.botN) < 8 by omega]

end Packing

/-- Settles O50: a bit inside a field is the packed one, a bit outside it the old one. -/
theorem packUnpackRoundTrip : Obligations.PackUnpackRoundTrip := by
  intro l t m phys h
  refine ⟨fun i hi => getLsbD_unpack h hi, unpack_pack h, fun i hi => ?_, fun i hi => ?_⟩
  · rw [getLsbD_packTop, if_neg (by omega)]
    simpa using fun hbit => BitVec.lt_of_getLsbD hbit
  · rw [getLsbD_packBot, if_neg (by omega)]
    simpa using fun hbit => BitVec.lt_of_getLsbD hbit

end Machine

end Sys2Proof
end

-- The codec's commands: what GET_CORRECTION and SET_CORRECTION do, and a force bit that is not set.
section
/-!
SUPPORT and PROOFS. The value a storage place holds in a state (`Slot.value`), `GET_CORRECTION` where its
calls succeed, `SET_CORRECTION` where they succeed or stop at the read of the force register, and the
statements `GetCorrectionSingleResult`, `GetCorrectionPairResult`, `SetCorrectionSingleResult`,
`SetCorrectionPairResult`, `SetCorrectionFailsUnforced`.
-/

namespace Sys2Proof

/-- The logical value a storage place holds (42_calibration rule R178). -/
def Slot.value (b : CorrBand) (s : Machine.State) : Slot → Int
  | .single e => Machine.decode8 (s.feAt (e.reg.get b)) e.shift
  | .pair e =>
    Machine.decodeRxDc
      (Machine.unpack e.layout (s.feAt (e.reg.get b).top) (s.feAt (e.reg.get b).bot))

/-- What a legal storage place holds fits an `i16`. -/
theorem Slot.value_bounds {c : Cfg} {slot : Slot} (h : c.slotLegal slot = true) (b : CorrBand)
    (s : Machine.State) : -(2 ^ 15) ≤ slot.value b s ∧ slot.value b s < 2 ^ 15 := by
  cases slot with
  | single e =>
    obtain ⟨-, hshift⟩ := Cfg.slotLegal_single h
    exact Machine.decode8_bounds _ (by omega)
  | pair e => exact Machine.decodeRxDc_bounds _

@[simp] theorem Slot.value_after (slot : Slot) (b : CorrBand) (s : Machine.State)
    (cs : List Machine.Call) : slot.value b (s.after cs) = slot.value b s := by
  cases slot <;> rfl

namespace Machine

section GetCorrection

variable {s : State} {ch kd : BitVec 8} {c : Chan} {k : Kind} {b : CorrBand} {slot : Slot}

/-- A value that fits an `i16` is answered as it is (42_calibration rule R178). -/
theorem resultOfValue_eq {x : Int} (hlow : -(2 ^ 15) ≤ x) (hhigh : x < 2 ^ 15) :
    resultOfValue x = BitVec.ofInt 64 x := by
  rw [resultOfValue, BitVec.signExtend, BitVec.toInt_ofInt_eq_self (by decide) hlow hhigh]

/-- Reading a correction reads its registers in their order, the top one of a pair first
(42_calibration rule R178). -/
theorem readCorr_succeeds (hslot : s.cfg.slotLegal slot = true)
    (h : s.nextCallsSucceed (slot.regs b).length) :
    readCorr slot b s = .done (slot.value b s) (s.after ((slot.regs b).map .spiRead)) := by
  have hok := State.reply_nonneg h
  cases slot with
  | single e =>
    have ha := (Cfg.slotLegal_single hslot).1 b
    have hfirst := hok 0 Nat.one_pos
    simp [readCorr, Slot.regs, Slot.value, spiRead_succeeds, State.nextStatus_eq_getElem, ha, hfirst]
  | pair e =>
    obtain ⟨htop, hbot⟩ := (Cfg.slotLegal_pair hslot).1 b
    have hfirst := hok 0 Nat.two_pos
    have hsecond := hok 1 Nat.one_lt_two
    simp [readCorr, Slot.regs, Slot.value, spiRead_succeeds, State.nextStatus_eq_getElem, htop, hbot,
      hfirst, hsecond]

/-- `GET_CORRECTION` past its checks: the port is asked for, the registers are read, and the value they
hold is answered. -/
theorem execGetCorrection_succeeds (hc : s.cfg.legal = true) (hb : s.bstate = .initialized)
    (hch : Chan.ofCode ch = some c) (hkd : Kind.ofCode kd = some k) (hslot : s.cfg.slot c k = slot)
    (hband : s.cfg.corrBandOfPort c.dir (s.port.get c.dir) = some b)
    (h : s.nextCallsSucceed ((slot.regs b).length + 1)) :
    exec (.getCorrection ch kd) s = .next
      ((s.after (.phyGetPort c.dir :: (slot.regs b).map .spiRead)).respond 0
        (BitVec.ofInt 64 (slot.value b s))) := by
  have hlegal : s.cfg.slotLegal slot = true := hslot ▸ Cfg.legal_slotLegal hc c k
  obtain ⟨hlow, hhigh⟩ := Slot.value_bounds hlegal b s
  have hread : (s.after [.phyGetPort c.dir]).nextCallsSucceed (slot.regs b).length :=
    State.nextCallsSucceed_of_drop (k := 1) h rfl (Nat.add_comm _ _).le
  rw [exec, execGetCorrection, chanCommand_passes (State.initialized_code_le hb) hch,
    withKind_passes hkd, corrBandNow_succeeds hband (State.nextStatus_nonneg h (Nat.succ_pos _)),
    Res.bind_done, State.after_cfg, hslot,
    readCorr_succeeds (s := s.after [.phyGetPort c.dir]) hlegal hread, Res.bind_done, answer_done,
    State.after_after, Slot.value_after, resultOfValue_eq hlow hhigh, List.singleton_append]

end GetCorrection

/-- Settles O31: the value of a single register, as a product. -/
theorem getCorrectionSingleResult : Obligations.GetCorrectionSingleResult := by
  intro s ch kd c k b e hc hb hch hkd hslot hband hcalls
  rw [execGetCorrection_succeeds hc hb hch hkd hslot hband hcalls, Slot.value, decode8_eq]
  rfl

/-- Settles O32: the value of a pair, as a product. -/
theorem getCorrectionPairResult : Obligations.GetCorrectionPairResult := by
  intro s ch kd c k b e hc hb hch hkd hslot hband hcalls
  rw [execGetCorrection_succeeds hc hb hch hkd hslot hband hcalls, Slot.value, decodeRxDc_eq]
  rfl

section SetCorrection

variable {s u w : State} {ch kd : BitVec 8} {v : BitVec 16} {c : Chan} {k : Kind} {b : CorrBand}
  {slot : Slot} {m : Nat} {q : Int} {y : Byte}

/-- Setting the force bit of a register that reads `y`: the register is read and written
(42_calibration rule R176). -/
theorem forceSet_succeeds (hx : s.cfg.feHas (s.cfg.forceReg.get c) = true)
    (hy : s.feAt (s.cfg.forceReg.get c) = y) (h : s.nextCallsSucceed 2) :
    forceSet c k b s = .done () ((s.after [.spiRead (s.cfg.forceReg.get c),
      .spiWrite (s.cfg.forceReg.get c) (withForceBit (s.cfg.forceBitOf c k b) y)]).setFe
        (s.cfg.forceReg.get c) (withForceBit (s.cfg.forceBitOf c k b) y)) := by
  simp [forceSet, spiRead_succeeds, spiWrite_succeeds, hx, hy, State.nextStatus_eq_getElem,
    State.reply_nonneg h]

/-- The same where the read fails: nothing is written. -/
theorem forceSet_stops_read (hx : s.cfg.feHas (s.cfg.forceReg.get c) = true) (h : s.FailsAt 0 q) :
    forceSet c k b s
      = .raised (s.cfg.translate q) (s.after [.spiRead (s.cfg.forceReg.get c)]) := by
  simp [forceSet, spiRead_fails, hx, State.nextStatus_eq_getElem, h.status, h.negative]

/-- `SET_CORRECTION` that stores its value and sets its force bit (42_calibration rule R179). -/
theorem execSetCorrection_succeeds (hb : s.bstate = .initialized) (hch : Chan.ofCode ch = some c)
    (hkd : Kind.ofCode kd = some k)
    (hband : s.cfg.corrBandOfPort c.dir (s.port.get c.dir) = some b)
    (hcalls : s.nextCallsSucceed (m + 1)) (hslot : s.cfg.slot c k = slot)
    (hvalue : writeCorr slot b v (s.after [.phyGetPort c.dir]) = .done () u)
    (hforce : forceSet c k b u = .done () w) :
    exec (.setCorrection ch kd v) s = .next (w.respond 0 0) := by
  rw [execSetCorrection_eq hb hch hkd hband hcalls hslot, hvalue, Res.bind_done, hforce,
    Res.bind_done, answer_done]

end SetCorrection

/-- Settles O33: the force register is written last, in another register than the value. -/
theorem setCorrectionSingleResult : Obligations.SetCorrectionSingleResult := by
  intro s ch kd v c k b e hs hb hch hkd hslot hapart hband hcalls
  simp only [← encode8_eq]
  have ha := (Cfg.slotLegal_single (hslot ▸ Cfg.legal_slotLegal hs.cfgLegal c k)).1 b
  have hne := Cfg.slotApart_single hapart hslot c
  refine ⟨_, execSetCorrection_succeeds hb hch hkd hband hcalls hslot
    (writeCorr_single_succeeds ha (State.nextCallsSucceed_of_drop (k := 1) hcalls rfl (by decide)))
    (forceSet_succeeds (y := s.feAt (s.cfg.forceReg.get c)) (Cfg.legal_forceReg hs.cfgLegal c)
      (State.setFe_feAt_ne hne)
      (State.nextCallsSucceed_of_drop (k := 2) hcalls (by simp) (by decide))), rfl, fun a => ?_, ?_⟩
  · exact (feGet_fePut (feWf_fePut hs.feCanonical _ _) _ _ _).trans
      (if_congr Iff.rfl rfl (feGet_fePut hs.feCanonical _ _ _))
  · apply State.ext <;> simp [withForceBit]

/-- Settles O34: both registers of the pair are written, then the force register. -/
theorem setCorrectionPairResult : Obligations.SetCorrectionPairResult := by
  intro s ch kd v c k b e hs hb hch hkd hslot hapart hband hcalls
  simp only [← encodeRxDc_eq]
  obtain ⟨htop, hbot⟩ := (Cfg.slotLegal_pair (hslot ▸ Cfg.legal_slotLegal hs.cfgLegal c k)).1 b
  obtain ⟨hnetop, hnebot, hne⟩ := Cfg.slotApart_pair hapart hslot c
  have hregs := BitVec.toNat_inj.not.2 hne
  refine ⟨_, execSetCorrection_succeeds hb hch hkd hband hcalls hslot
    (writeCorr_pair_succeeds htop hbot
      (State.nextCallsSucceed_of_drop (k := 1) hcalls rfl (by decide)))
    (forceSet_succeeds (y := s.feAt (s.cfg.forceReg.get c)) (Cfg.legal_forceReg hs.cfgLegal c)
      ((State.setFe_feAt_ne hnebot).trans (State.setFe_feAt_ne hnetop))
      (State.nextCallsSucceed_of_drop (k := 5) hcalls (by simp [topStored]) (by decide))), rfl,
    fun a => ?_, ?_⟩
  · exact (feGet_fePut (feWf_fePut (feWf_fePut hs.feCanonical _ _) _ _) _ _ _).trans
      (if_congr Iff.rfl rfl (feGet_fePut_fePut hs.feCanonical hregs _ _ _))
  · apply State.ext <;> simp [withForceBit, topStored, topByte, botByte]

/-- Settles O42: the value is stored, and the read of the force register ends the command. -/
theorem setCorrectionFailsUnforced : Obligations.SetCorrectionFailsUnforced := by
  intro s ch kd v c k b q hs hb hch hkd hapart hband hq
  simp only [← encode8_eq, ← encodeRxDc_eq]
  have hlegal := Cfg.legal_slotLegal hs.cfgLegal c k
  have hforce := Cfg.legal_forceReg hs.cfgLegal c
  refine ⟨fun e hslot hok h => ?_, fun e hslot hok h => ?_⟩
  · have hf : s.FailsAt 2 q := ⟨hok, h, hq⟩
    have ha := (Cfg.slotLegal_single (hslot ▸ hlegal)).1 b
    exact ⟨_, execSetCorrection_stops_in_force hb hch hkd hband hok hslot
      (writeCorr_single_succeeds ha (State.nextCallsSucceed_of_drop (k := 1) hok rfl (by decide)))
      (forceSet_stops_read hforce (hf.of_drop (m := 2) (by simp))), rfl,
      fun a => feGet_fePut hs.feCanonical _ _ _⟩
  · have hf : s.FailsAt 5 q := ⟨hok, h, hq⟩
    obtain ⟨htop, hbot⟩ := (Cfg.slotLegal_pair (hslot ▸ hlegal)).1 b
    obtain ⟨-, -, hne⟩ := Cfg.slotApart_pair hapart hslot c
    have hregs := BitVec.toNat_inj.not.2 hne
    exact ⟨_, execSetCorrection_stops_in_force hb hch hkd hband hok hslot
      (writeCorr_pair_succeeds htop hbot
        (State.nextCallsSucceed_of_drop (k := 1) hok rfl (by decide)))
      (forceSet_stops_read hforce (hf.of_drop (m := 5) (by simp [topStored]))), rfl,
      fun a => feGet_fePut_fePut hs.feCanonical hregs _ _ _⟩

end Machine

end Sys2Proof
end

-- A correction set and read back over two steps.
section
/-!
SUPPORT and PROOFS. What the front end's time between two commands leaves of a forced correction, what a
successful `SET_CORRECTION` leaves for a `GET_CORRECTION` after it (`CorrectionSet`), and the statement
`SetThenGetRoundsDown`.
-/

namespace Sys2Proof

theorem Slot.regs_length_le (slot : Slot) (b : CorrBand) : (slot.regs b).length ≤ 2 := by
  cases slot <;> simp [Slot.regs]

namespace Machine

section Hold

variable {s : State} {c : Chan} {k : Kind} {b : CorrBand}

theorem getField_and_fieldMask {w : Nat} (lo n : Nat) (x : BitVec w) :
    getField lo n (x &&& fieldMask w lo n) = getField lo n x := by
  apply BitVec.eq_of_getLsbD_eq
  intro i _
  simp only [getLsbD_getField, BitVec.getLsbD_and, getLsbD_fieldMask]
  by_cases hw : lo + i < w
  · by_cases hn : i < n <;> simp [hw, hn]
  · simp [BitVec.getLsbD_of_ge x _ (Nat.not_lt.1 hw)]

/-- A field depends on its own bits alone. -/
theorem getField_eq_of_masked {w lo n : Nat} {x y : BitVec w}
    (h : x &&& fieldMask w lo n = y &&& fieldMask w lo n) : getField lo n x = getField lo n y := by
  rw [← getField_and_fieldMask, h, getField_and_fieldMask]

/-- Between two commands a correction whose force bit is 1 keeps its value (42_calibration rule R174;
log 9, log 11). -/
theorem State.commandStart_value (hc : s.cfg.legal = true) (hb : s.bstate = .initialized)
    (hforced : s.forced c k b = true) :
    (s.cfg.slot c k).value b s.commandStart = (s.cfg.slot c k).value b s := by
  have hheld := (forcedCorrectionsHoldBetweenCommands s hb).2.1 c k b
  have hlegal := Cfg.legal_slotLegal hc c k
  cases hslot : s.cfg.slot c k with
  | single e =>
    rw [hslot] at hlegal
    have hreg := hheld ⟨c, k, b, e.reg.get b, 0xFF⟩ hforced (by simp [Cfg.fieldsOf, hslot])
      ((Cfg.slotLegal_single hlegal).1 b)
    rw [and_ff, and_ff] at hreg
    simp only [Slot.value, hreg]
  | pair e =>
    rw [hslot] at hlegal
    obtain ⟨htop, hbot⟩ := (Cfg.slotLegal_pair hlegal).1 b
    have htop := hheld
      ⟨c, k, b, (e.reg.get b).top, fieldMask 8 e.layout.topLo e.layout.topN⟩ hforced
      (by simp [Cfg.fieldsOf, hslot]) htop
    have hbot := hheld
      ⟨c, k, b, (e.reg.get b).bot, fieldMask 8 e.layout.botLo e.layout.botN⟩ hforced
      (by simp [Cfg.fieldsOf, hslot]) hbot
    simp only [Slot.value, unpack, getField_eq_of_masked htop, getField_eq_of_masked hbot]

end Hold

section SetThenGet

variable {s t : State} {ch kd : BitVec 8} {v : BitVec 16} {c : Chan} {k : Kind} {b : CorrBand}
  {slot : Slot}

/-- What a successful `SET_CORRECTION` that began in `s` leaves for the command after it: the value,
rounded down to the granularity, and no field changed but the front end's registers and the response,
by at most seven calls. -/
structure CorrectionSet (slot : Slot) (b : CorrBand) (v : BitVec 16) (s t : State) : Prop where
  response : t.response = some ⟨0, 0⟩
  value : slot.value b t = slot.granularity * (v.toInt / slot.granularity)
  frame : ∃ calls : List Call, calls.length ≤ 7 ∧
    { t with fe := s.fe, response := s.response } = s.after calls

theorem execSetCorrection_correctionSet (hs : s.Inv) (hb : s.bstate = .initialized)
    (hch : Chan.ofCode ch = some c) (hkd : Kind.ofCode kd = some k)
    (hslot : s.cfg.slot c k = slot) (hapart : s.cfg.slotApart c k b = true)
    (hband : s.cfg.corrBandOfPort c.dir (s.port.get c.dir) = some b)
    (hlow : -slot.top ≤ v.toInt) (hhigh : v.toInt < slot.top) (hcalls : s.nextCallsSucceed 7) :
    ∃ t, exec (.setCorrection ch kd v) s = .next t ∧ CorrectionSet slot b v s t := by
  cases slot with
  | single e =>
    obtain ⟨t, hexec, hresponse, hfe, hframe⟩ := setCorrectionSingleResult s ch kd v c k b e hs hb
      hch hkd hslot hapart hband (State.nextCallsSucceed_le (by decide) hcalls)
    have hne := Cfg.slotApart_single hapart hslot c
    have hreg : t.feAt (e.reg.get b) = encode8 v e.shift := by
      rw [State.feAt, hfe, if_neg (BitVec.toNat_inj.not.2 hne), if_pos rfl, encode8_eq]
    refine ⟨t, hexec, hresponse, ?_, _, by simp, hframe⟩
    rw [Slot.value, hreg]
    exact decode8_encode8 hlow hhigh
  | pair e =>
    obtain ⟨t, hexec, hresponse, hfe, hframe⟩ := setCorrectionPairResult s ch kd v c k b e hs hb
      hch hkd hslot hapart hband hcalls
    obtain ⟨hnetop, hnebot, hne⟩ := Cfg.slotApart_pair hapart hslot c
    have htop : t.feAt (e.reg.get b).top
        = packTop e.layout (s.feAt (e.reg.get b).top) (encodeRxDc v) := by
      rw [State.feAt, hfe, if_neg (BitVec.toNat_inj.not.2 hnetop), if_pos rfl, encodeRxDc_eq]
    have hbot : t.feAt (e.reg.get b).bot
        = packBot e.layout (s.feAt (e.reg.get b).bot) (encodeRxDc v) := by
      rw [State.feAt, hfe, if_neg (BitVec.toNat_inj.not.2 hnebot),
        if_neg (BitVec.toNat_inj.not.2 hne.symm), if_pos rfl, encodeRxDc_eq]
    refine ⟨t, hexec, hresponse, ?_, _, by simp, hframe⟩
    have hlegal := (Cfg.slotLegal_pair (hslot ▸ Cfg.legal_slotLegal hs.cfgLegal c k)).2
    rw [Slot.value, htop, hbot, unpack_pack hlegal]
    exact decodeRxDc_encodeRxDc hlow hhigh

end SetThenGet

/-- Settles O51: the first step stores the value and sets its force bit, so the front end leaves it
alone, and the second step reads it. -/
theorem setThenGetRoundsDown : Obligations.SetThenGetRoundsDown := by
  intro s ch kd v c k b rest hs hb hch hkd hapart hband hlow hhigh hp hcalls
  have hs₀ : s.commandStart.Inv := (Kept.commandStart s).inv hs.taken
  obtain ⟨t, hset, hresponse, hvalue, calls, hlen, hframe⟩ :=
    execSetCorrection_correctionSet (s := s.commandStart) (slot := s.cfg.slot c k) hs₀
      (by simpa using hb) hch hkd (by simp) (by simpa using hapart) (by simpa using hband) hlow hhigh
      (State.nextCallsSucceed_of_drop hcalls (k := 0) (by simp) (by decide))
  have hcfg : t.cfg = s.cfg := by simpa using congrArg State.cfg hframe
  have hbstate : t.bstate = .initialized := by simpa [hb] using congrArg State.bstate hframe
  have hport : t.port = s.port := by simpa using congrArg State.port hframe
  have hreplies : t.replies = s.replies.drop calls.length := by
    simpa using congrArg State.replies hframe
  have hpending : t.pending = encode (.getCorrection ch kd) :: rest := by
    simpa [hp] using congrArg State.pending hframe
  have hforced : t.forced c k b = true :=
    (setCorrectionClearsNoForceBit s.commandStart t ch kd v c k b hs₀ hch hkd (by simpa using hband)
      (by simpa using hapart) hset ⟨0, hresponse⟩).1
  have hheld := State.commandStart_value (hcfg ▸ hs.cfgLegal) hbstate hforced
  rw [hcfg, hvalue] at hheld
  have hlast := Slot.regs_length_le (s.cfg.slot c k) b
  have hget := execGetCorrection_succeeds (s := t.commandStart) (slot := s.cfg.slot c k) (b := b)
    (by simpa [hcfg] using hs.cfgLegal) (by simpa using hbstate) hch hkd (by simp [hcfg])
    (by simpa [hcfg, hport] using hband)
    (State.nextCallsSucceed_of_drop hcalls (k := calls.length) (by simpa using hreplies) (by omega))
  refine ⟨t, _, (step_of_decode_ok hp (decodeOfEncode _)).trans hset, hresponse,
    (step_of_decode_ok hpending (decodeOfEncode _)).trans hget, ?_⟩
  rw [State.respond_response, hheld]

end Machine

end Sys2Proof
end

-- The module commands: what disabling and stream configuration do, and enabling twice.
section
/-!
SUPPORT and PROOFS. What a successful `ENABLE_MODULE` leaves (`moduleEnabled`), how far a
`DISABLE_MODULE` has come wherever it ends (`DisabledUpTo`), and the statements `DisableModuleResult`,
`TeardownPrecedesDisable`, `EnableTwiceIsIdempotent`, `SyncConfigResult`.
-/

namespace Sys2Proof

namespace Machine

/-! The orchestrator's RFFE value (43_module_enable rule R201), read back and written again. -/

section ModuleRffe

variable {c : Cfg} {d : Dir} (e : Bool) (b : Band) (r : Rffe)

theorem enabledIn_moduleRffe (hc : c.legal = true) : c.enabledIn d (moduleRffe c d e b r) = e := by
  rw [moduleRffe, Cfg.enabledIn_withAntenna _ _ hc, Cfg.enabledIn_withEnable]

theorem antennaIn_moduleRffe (hc : c.legal = true) :
    c.antennaIn d (moduleRffe c d e b r) = c.antCodeOf d b :=
  Cfg.antennaIn_withAntenna _ _ hc

/-- The enable bit already stands as it is written, and so does the antenna field. -/
theorem moduleRffe_moduleRffe (hc : c.legal = true) :
    moduleRffe c d e b (moduleRffe c d e b r) = moduleRffe c d e b r := by
  have hbit : c.withEnable d e (moduleRffe c d e b r) = moduleRffe c d e b r := by
    have hstands := Cfg.withEnable_enabledIn (c := c) (d := d) (moduleRffe c d e b r)
    rwa [enabledIn_moduleRffe e b r hc] at hstands
  calc moduleRffe c d e b (moduleRffe c d e b r)
      = c.withAntenna d b (moduleRffe c d e b r) := by rw [moduleRffe, hbit]
    _ = moduleRffe c d e b r := Cfg.withAntenna_withAntenna d b _

end ModuleRffe

section Enable

variable {s t : State} {d : Dir} {ch : BitVec 8} {c : Chan}

/-- What `ENABLE_MODULE` leaves, its answer apart, when every call succeeds (43_module_enable rule
R202). It depends on the channel through its direction only. -/
def moduleEnabled (d : Dir) (s : State) : State :=
  let b := s.cfg.bandOf d (s.loFreq.get d)
  let r := moduleRffe s.cfg d true b s.rffe
  (((s.after [.phyGetLo d, .phySetPort d (s.cfg.portOf d b), .rffeRead, .rffeWrite r,
    .backendEnable d true]).withPort d (s.cfg.portOf d b)).withRffe r).withModEn d true

@[simp] theorem moduleEnabled_cfg : (moduleEnabled d s).cfg = s.cfg := rfl
@[simp] theorem moduleEnabled_loFreq : (moduleEnabled d s).loFreq = s.loFreq := rfl
@[simp] theorem moduleEnabled_modEn : (moduleEnabled d s).modEn = s.modEn.set d true := rfl
@[simp] theorem moduleEnabled_port : (moduleEnabled d s).port
    = s.port.set d (s.cfg.portOf d (s.cfg.bandOf d (s.loFreq.get d))) := rfl
@[simp] theorem moduleEnabled_rffe : (moduleEnabled d s).rffe
    = moduleRffe s.cfg d true (s.cfg.bandOf d (s.loFreq.get d)) s.rffe := rfl

/-- An `ENABLE_MODULE` that shows success made all five calls. -/
theorem execEnableModule_succeeded (hc : s.cfg.legal = true) (hch : Chan.ofCode ch = some c)
    (h : exec (.enableModule ch) s = .next t) (ht : t.succeeded) :
    ∃ v, t = (moduleEnabled c.dir s).respond 0 v := by
  obtain ⟨v, _, hdone, rfl⟩ := chanCommand_succeeded hch h (exec_cfg h ▸ hc) ht
  obtain ⟨f, _, hlo, hdone⟩ := Res.bind_eq_done hdone
  obtain ⟨-, rfl, rfl⟩ := phyGetLo_eq_done hlo
  obtain ⟨⟨⟩, _, hport, hdone⟩ := Res.bind_eq_done hdone
  obtain ⟨-, rfl⟩ := phySetPort_eq_done hport
  obtain ⟨r, _, hread, hdone⟩ := Res.bind_eq_done hdone
  obtain ⟨-, rfl, rfl⟩ := rffeRead_eq_done hread
  obtain ⟨⟨⟩, _, hwrite, hdone⟩ := Res.bind_eq_done hdone
  obtain ⟨-, rfl⟩ := rffeWrite_eq_done hwrite
  obtain ⟨⟨⟩, _, hmod, ⟨⟩⟩ := Res.bind_eq_done hdone
  obtain ⟨-, rfl⟩ := backendEnable_eq_done hmod
  exact ⟨0, by simp [moduleEnabled]⟩

end Enable

/-- Settles O54: the second enable finds the frequency of the first, so it takes the same band and
writes the same port, register value and module bit. -/
theorem enableTwiceIsIdempotent : Obligations.EnableTwiceIsIdempotent := by
  intro s t u ch ch' c c' hc hch hch' hdir ht htok hu huok
  obtain ⟨v, rfl⟩ := execEnableModule_succeeded hc hch ht htok
  obtain ⟨w, rfl⟩ := execEnableModule_succeeded (s := (moduleEnabled c.dir s).respond 0 v) hc hch' hu huok
  rw [hdir]
  refine ⟨?rffe, ?port, ?modEn, ?enabled, ?antenna⟩
  case rffe => simp [moduleRffe_moduleRffe, hc]
  case port => simp
  case modEn => simp
  case enabled => simp [State.enabled, enabledIn_moduleRffe, hc]
  case antenna => simp [State.antenna, antennaIn_moduleRffe, hc]

section Disable

variable {s t : State} {ch : BitVec 8} {c : Chan}

/-- What holds wherever the body of a command ends, and does not speak of the response, holds after the
command. -/
theorem holds_of_answer {P : State → Prop} {r : Res (BitVec 64)} (hr : r.leaves P)
    (h : answer r = .next t) (hP : ∀ u status result, P u → P (u.respond status result)) : P t := by
  obtain ⟨u, status, result, hu, rfl⟩ := answer_leaves hr h
  exact hP u status result hu

/-- The calls of `DISABLE_MODULE` after the teardown (43_module_enable rule R203). -/
def disableCalls (d : Dir) (s : State) : List Call :=
  [.rffeRead, .rffeWrite (moduleRffe s.cfg d false .shutdown s.rffe), .backendEnable d false]

/-- `DISABLE_MODULE`, begun in `s`, stands in `u` with the stream handle destroyed and `k` calls made
after the teardown. -/
structure DisabledUpTo (k : Nat) (d : Dir) (s u : State) : Prop where
  syncHandle : u.syncHandle = s.syncHandle.set d false
  calls : u.calls = s.calls ++ .streamTeardown d :: (disableCalls d s).take k

/-- Past its checks `DISABLE_MODULE` ends after the call that failed, or after the last. -/
theorem execDisableModule_disabledUpTo (hb : s.bstate = .initialized) (hch : Chan.ofCode ch = some c)
    (h : exec (.disableModule ch) s = .next t) : ∃ k, DisabledUpTo k c.dir s t := by
  rw [exec, execDisableModule, chanCommand_passes (State.initialized_code_le hb) hch] at h
  refine holds_of_answer (P := fun u => ∃ k, DisabledUpTo k c.dir s u) ?_ h
    fun u _ _ ⟨k, hu⟩ => ⟨k, hu.syncHandle, hu.calls⟩
  refine Res.leaves_bind (rffeRead_leaves ⟨1, rfl, by simp [disableCalls]⟩) fun r u hread _ => ?_
  obtain ⟨-, rfl, rfl⟩ := rffeRead_eq_done hread
  refine Res.leaves_bind (callWith_leaves ⟨2, rfl, by simp [disableCalls]⟩
    ⟨2, rfl, by simp [disableCalls, State.freeRffe]⟩) fun _ u hwrite _ => ?_
  obtain ⟨-, rfl⟩ := rffeWrite_eq_done hwrite
  exact Res.leaves_bind (callWith_leaves ⟨3, rfl, by simp [disableCalls]⟩
    ⟨3, rfl, by simp [disableCalls, State.freeModEn]⟩) fun _ _ _ hlast => hlast

end Disable

/-- Settles O43: wherever the command ends, the calls after the teardown are the first few of its
list. -/
theorem teardownPrecedesDisable : Obligations.TeardownPrecedesDisable := by
  intro s t ch c hb hch h
  obtain ⟨k, hhandle, hcalls⟩ := execDisableModule_disabledUpTo hb hch h
  exact ⟨hhandle, _, hcalls, List.take_prefix k _⟩

/-- Settles O36: the teardown, then three calls in order, each finding a status that is no failure. -/
theorem disableModuleResult : Obligations.DisableModuleResult := by
  intro s ch c hb hch hcalls r
  have hok := State.reply_nonneg hcalls
  rw [exec, execDisableModule, chanCommand_passes (State.initialized_code_le hb) hch]
  simp [streamTeardown, rffeRead_succeeds, rffeWrite_succeeds, backendEnable_succeeds,
    State.nextStatus_eq_getElem, hok, moduleRffe, r]

/-- Settles O37: past its checks the command is the one update of the handle. -/
theorem syncConfigResult : Obligations.SyncConfigResult := by
  intro s ch c hb hch
  rw [exec, execSyncConfig, chanCommand_passes (State.initialized_code_le hb) hch, answer_done]

end Machine

end Sys2Proof
end

-- What the low-level register read does.
section
/-!
PROOFS. The statement about `REG_READ` (44_lowlevel rule R223): `RegReadResult`.
-/

namespace Sys2Proof

namespace Machine

/-- Settles O38: past the checks the command is one successful read of the register, and the statement's
result is that byte zero-extended. -/
theorem regReadResult : Obligations.RegReadResult := by
  intro s a hmin ha hcall
  rw [BitVec.ofNat_toNat]
  exact execRegRead_succeeds hmin (Cfg.feHas_iff.mpr ha) hcall

end Machine

end Sys2Proof
end

-- Exceptions: the checks before a command's body, and the error a collaborator's status becomes.
section
/-!
SUPPORT and PROOFS. Every command as one gate at its minimum board state before a body that refuses an
illegal channel or kind, the scan of `ERR_MAP`, and the statements of the exceptions family
(60_exceptions rules R243 and R251): `GateThenOperandCheck`, `StatusTranslation`.
-/

namespace Sys2Proof

theorem chanLegal_eq_false_iff {ch : BitVec 8} : chanLegal ch = false ↔ Chan.ofCode ch = none :=
  Option.isSome_eq_false_iff.trans Option.isNone_iff_eq_none

theorem kindLegal_eq_false_iff {kd : BitVec 8} : kindLegal kd = false ↔ Kind.ofCode kd = none :=
  Option.isSome_eq_false_iff.trans Option.isNone_iff_eq_none

namespace Machine

section OperandChecks

variable {α : Type} {s : State} {ch kd : BitVec 8}

theorem withChan_of_illegal {k : Chan → State → Res α} (h : chanLegal ch = false) :
    withChan ch s k = .raised .inval s :=
  withChan_refuses (chanLegal_eq_false_iff.1 h)

/-- The two operand checks of a correction command refuse alike, whichever of the two it is. -/
theorem withChan_withKind_of_illegal {k : Chan → Kind → State → Res α}
    (h : (chanLegal ch && kindLegal kd) = false) :
    withChan ch s (fun c s => withKind kd s (k c)) = .raised .inval s := by
  cases hch : Chan.ofCode ch with
  | none => exact withChan_refuses hch
  | some c =>
    have hkd : kindLegal kd = false := by simpa [chanLegal, hch] using h
    rw [withChan_passes hch, withKind_refuses (kindLegal_eq_false_iff.1 hkd)]

/-- Every command is the gate at its minimum board state before a body, and the body of an ill-formed
command refuses at once (60_exceptions rules R250 and R251). `FW_DETECTED` and `CLOSE` have no gate in
the model: theirs is the one at `Uninitialized`, which every board state passes. -/
theorem exec_eq_answer_gate (i : Instr) (s : State) : ∃ body : State → Res (BitVec 64),
    exec i s = answer (gate (s.cfg.minState i) s body)
      ∧ (i.wellFormed = false → body s = .raised .inval s) := by
  cases i with
  | fwDetected => exact ⟨fun _ => .done 0 _, rfl, nofun⟩
  | fpgaLoaded => exact ⟨_, rfl, nofun⟩
  | init => exact ⟨_, rfl, nofun⟩
  | close => exact ⟨fun _ => .done 0 _, rfl, nofun⟩
  | selectBand => exact ⟨_, rfl, withChan_of_illegal⟩
  | setFrequency => exact ⟨_, rfl, withChan_of_illegal⟩
  | setRfPort => exact ⟨_, rfl, withChan_of_illegal⟩
  | getRfPort => exact ⟨_, rfl, withChan_of_illegal⟩
  | getCorrection => exact ⟨_, rfl, withChan_withKind_of_illegal⟩
  | setCorrection => exact ⟨_, rfl, withChan_withKind_of_illegal⟩
  | enableModule => exact ⟨_, rfl, withChan_of_illegal⟩
  | disableModule => exact ⟨_, rfl, withChan_of_illegal⟩
  | syncConfig => exact ⟨_, rfl, withChan_of_illegal⟩
  | regRead => exact ⟨_, rfl, nofun⟩
  | regWrite => exact ⟨_, rfl, nofun⟩

end OperandChecks

/-- Settles O19: the gate stands before the body, and the body of an ill-formed command is its
refusal. -/
theorem gateThenOperandCheck : Obligations.GateThenOperandCheck := by
  intro i s
  obtain ⟨body, hexec, hrefuses⟩ := exec_eq_answer_gate i s
  refine ⟨fun hlow => ?_, fun hmin hill => ?_⟩
  · rw [hexec, gate_refuses hlow, answer_raised]
  · rw [hexec, gate_passes hmin, hrefuses hill, answer_raised]

end Machine

/-- The scan passes over rows of another magnitude. -/
theorem lookupErr_append {pre : List ErrMapRow} {code : Nat} (h : ∀ row ∈ pre, row.code ≠ code)
    (rest : List ErrMapRow) : lookupErr (pre ++ rest) code = lookupErr rest code := by
  induction pre with
  | nil => rfl
  | cons row rows ih =>
    obtain ⟨hrow, hrows⟩ := List.forall_mem_cons.1 h
    rw [List.cons_append, lookupErr, if_neg hrow, ih hrows]

/-- Settles O44: the scan comes to the end of the map, or to the first row of the magnitude. -/
theorem statusTranslation : Obligations.StatusTranslation := by
  intro c q
  refine ⟨fun hnone => ?_, fun pre row post hmap hrow hpre => ?_⟩
  · rw [Cfg.translate, ← List.append_nil c.errMap, lookupErr_append hnone, lookupErr]
  · rw [Cfg.translate, hmap, lookupErr_append hpre, lookupErr, if_pos hrow]

end Sys2Proof
end
